-- ==== Sys2Proof/Word.lean ====
section
/-! DEFINITION. The words of the machine: a register is held in 64 bits whatever MXLEN is (a hart with
MXLEN=32 keeps the upper half zero), an effective XLEN is one of two names, a privilege mode one of three. -/

namespace Sys2Proof

/-- The storage of one register: MXLEN bits, the upper 32 bits zero when MXLEN=32 (00_scope.md R6). -/
abbrev Word := BitVec 64

/-- One byte of memory. -/
abbrev Byte := BitVec 8

/-- An effective XLEN, by the encoding of `misa.MXL`: 1 is 32, 2 is 64 (10_state.md R31, R52). -/
inductive Xlen where
  | x32
  | x64
deriving DecidableEq, Repr

/-- A privilege mode: U=00, S=01, M=11 (00_scope.md R9). -/
inductive Priv where
  | u
  | s
  | m
deriving DecidableEq, Repr

/-- The encoding of a privilege mode in `MPP` (00_scope.md R9, 10_state.md R51). -/
def Priv.code : Priv → BitVec 2
  | .u => 0
  | .s => 1
  | .m => 3

/-- The width of an XLEN in bits. -/
def Xlen.bits : Xlen → Nat
  | .x32 => 32
  | .x64 => 64

/-- The encoding of an XLEN in `MXL`, `SXL` and `UXL` (10_state.md R52). -/
def Xlen.code : Xlen → BitVec 2
  | .x32 => 1
  | .x64 => 2

end Sys2Proof
end

