-- ==== Sys2Proof/Config.lean ====
section
/-! DEFINITION. The configuration record of 00_scope.md R6 as plain data, the reference configuration REF, and the
free values: constants without a body, read at the model's counter, that nothing in Lean can evaluate. -/

namespace Sys2Proof

/-- How a WARL field's legaliser is chosen (00_scope.md R6, R10): the reference configuration's function, a field that
cannot be written, or another implementation's, which stores what it calls legal (`Config.warlLegal`) and turns any
other written value into some legal one (`Config.warl`); what the rules call illegal is legal under none of the three. -/
inductive WarlKind where
  | ref
  | readOnly
  | impl
deriving DecidableEq, Repr

/-- The WARL fields whose legaliser `cfg` may choose freely. `medeleg` and `mideleg` are not among them: their writable bits
are their legaliser (11_state_trap_csrs.md R112, R113). -/
inductive WarlField where
  | misa
  | mpp
  | mtvec
  | mepc
  | mcause
  | pmpcfg
  | pmpaddr
  | mhpmevent
  | mhpmcounter
  | stvec
  | tvm
  | tw
  | tsr
  | menvcfg
  | mseccfg
  | mtval
  | mcounteren
  | mcountinhibit
  | sxl
  | uxl
deriving DecidableEq, Repr

/-- `MBE_KIND`, `SBE_KIND`, `UBE_KIND` (00_scope.md R6): read-only 0, read-only 1, writable, a copy of `MBE`, a copy of
`SBE` (10_state.md R58). For `MBE` the two copy values read as read-only 0. -/
inductive EndianKind where
  | ro0
  | ro1
  | rw
  | copyM
  | copyS
deriving DecidableEq, Repr

/-- `SXL_KIND`, `UXL_KIND` (10_state.md R52): a read-only width, both widths writable, or for `UXL` a read-only copy of
`SXL`. A width of U above that of S is never in effect. -/
inductive XlKind where
  | ro (x : Xlen)
  | rw
  | followS
deriving DecidableEq, Repr

/-- `FS_KIND`, `VS_KIND`, `XS_KIND` (10_state.md R63 to R65, R69): read-only zero, tracked precisely, tracked imprecisely (an access
may report Dirty), or only Off and Dirty. -/
inductive ContextKind where
  | ro0
  | precise
  | imprecise
  | offDirty
deriving DecidableEq, Repr

/-- `PMP_N` (12_state_config_pmp_mmio.md R210): zero, 16 or 64 entries. -/
inductive PmpCount where
  | none
  | sixteen
  | sixtyFour
deriving DecidableEq, Repr

/-- The number of PMP entries. -/
def PmpCount.num : PmpCount → Nat
  | .none => 0
  | .sixteen => 16
  | .sixtyFour => 64

/-- `WFI_KIND` (43_wfi.md R421, R422): a NOP, a hart that stalls until a wake-up, or a free choice at every WFI and at
every idle step. -/
inductive WfiKind where
  | nop
  | stall
  | free
deriving DecidableEq, Repr

/-- `MISALIGNED_KIND` (20_memory.md R265): every misaligned access raises address-misaligned, every one raises an
access fault, or the PMA of the region decides. -/
inductive MisalignedKind where
  | raiseMisaligned
  | raiseAccessFault
  | perRegion
deriving DecidableEq, Repr

/-- `MCYCLE_STEP` (11_state_trap_csrs.md R125): one per executed instruction and none while stalled, or a free amount. -/
inductive CycleKind where
  | one
  | free
deriving DecidableEq, Repr

/-- `MEMORY_MODEL` (00_scope.md R6): the one sequentially consistent memory of 92_eei_decisions.md D22, RVWMO, or RVTSO
on every region. One hart that makes its accesses in program order shows the same under each (log entry 35). -/
inductive MemoryModel where
  | sequential
  | rvwmo
  | rvtso
deriving DecidableEq, Repr

/-- A unit whose state has a status field: floating point with `FS`, vectors with `VS`, and an additional extension, by its
index in `xsSources`, with its own (10_state.md R63 to R65). -/
inductive StateUnit where
  | float
  | vector
  | other (i : Nat)
deriving DecidableEq, Repr

/-- What an instruction does to the state of a unit: the execution rows of Table 4 (10_state.md R68). -/
inductive UnitAction where
  | read
  | modify
  | unconfigure
  | disable
  | enable
deriving DecidableEq, Repr

/-- Instruction words of an extension picked out by a mask: those whose masked bits are the value. They exist while the
`misa` letter, if they need one, is on, and are illegal while the status of a unit whose state they use is Off
(10_state.md R67). -/
structure WordPattern where
  mask : BitVec 32
  value : BitVec 32
  letter : Option Nat
  units : List StateUnit
deriving DecidableEq, Repr

/-- A word is one of a pattern's. -/
def WordPattern.fits (p : WordPattern) (w : BitVec 32) : Bool := w &&& p.mask == p.value

/-- Custom SYSTEM words picked out by their fields (44_custom_and_fences.md R430), and the units whose state they use: they
are illegal while the status of one is Off (10_state.md R67). They need no `misa` letter, so that clearing X leaves them
defined: 10_state.md R37 and R40 say nothing of them (DESIGN CHOICE, log entry 19). -/
structure CustomPattern where
  funct6 : BitVec 6
  hiMask : BitVec 11
  hi : BitVec 11
  loMask : BitVec 5
  lo : BitVec 5
  units : List StateUnit
deriving DecidableEq, Repr

/-- A custom word is one of a pattern's. -/
def CustomPattern.fits (p : CustomPattern) (f6 : BitVec 6) (hi : BitVec 11) (lo : BitVec 5) : Bool :=
  p.funct6 == f6 && hi &&& p.hiMask == p.hi && lo &&& p.loMask == p.lo

/-- A custom CSR (92_eei_decisions.md D29): the additional extension that it belongs to, by its index in `xsSources`, and where
it shows that extension's status, if it is the register with the status field (10_state.md R65; log entry 40). It needs no
`misa` letter: R37 and R40 say nothing of custom CSRs (DESIGN CHOICE, log entry 19). -/
structure CustomCsr where
  address : BitVec 12
  extension : Option Nat
  statusAt : Option Nat
deriving DecidableEq, Repr

/-- What a custom instruction that retires does to the hart (44_custom_and_fences.md R431; log entry 19): registers and
CSRs it writes, what it loads (address and width, as a power of two, in bytes) and stores (address, width, value), what it
does to the state of units (10_state.md R68), and where it goes if not to the next instruction. -/
structure CustomEffect where
  regs : List (BitVec 5 × Word)
  csrs : List (BitVec 12 × Word)
  loads : List (Word × Fin 4)
  stores : List (Word × Fin 4 × Word)
  units : List (StateUnit × UnitAction)
  target : Option Word
deriving DecidableEq, Repr, Inhabited

/-- The result of `customExec`, a partial function of the word and the state: nothing, so that the word is reserved there, an
exception, or a new state (44_custom_and_fences.md R431). -/
inductive CustomResult where
  | undefined
  | raises (code : Nat) (tval : Word)
  | retires (e : CustomEffect)
deriving DecidableEq, Repr, Inhabited

/-- The AMO support levels of Table 12 (20_memory.md R262). -/
inductive AmoClass where
  | amoNone
  | amoSwap
  | amoLogical
  | amoArithmetic
  | amoCasW
  | amoCasD
  | amoCasQ
deriving DecidableEq, Repr

/-- The reservability levels (20_memory.md R263). -/
inductive RsrvClass where
  | rsrvNone
  | rsrvNonEventual
  | rsrvEventual
deriving DecidableEq, Repr

/-- One region of the physical address space with its attributes (20_memory.md R258 to R269). An address in no region
is vacant: no access is allowed. -/
structure PmaRegion where
  base : Nat
  size : Nat
  /-- R260: main memory, else I/O. -/
  mainMemory : Bool
  /-- R261: the widths in bytes a read may have. -/
  readWidths : List Nat
  /-- R261: the widths in bytes a write may have. -/
  writeWidths : List Nat
  /-- R261: instruction fetch is supported. -/
  exec : Bool
  /-- R261: the widths for which misaligned accesses are supported. -/
  misalignedWidths : List Nat
  /-- R265: an unsupported misaligned access raises an access fault instead of address-misaligned (log entry 22). -/
  misalignedFault : Bool
  /-- R264: the size of the misaligned atomicity granule, where the attribute is present. -/
  granule : Option Nat
  /-- R262. -/
  amo : AmoClass
  /-- R263. -/
  rsrv : RsrvClass
  /-- R261: hardware page-table reads and writes (not made by the model, PAGING is false). -/
  ptwRead : Bool
  ptwWrite : Bool
  /-- R266: RVTSO instead of RVWMO (main memory). -/
  tso : Bool
  /-- R267: the ordering channel of a strongly ordered I/O region, none for relaxed order. -/
  channel : Option Nat
  /-- R268. -/
  coherent : Bool
  cacheable : Bool
  /-- R269. -/
  idempotentReads : Bool
  idempotentWrites : Bool
deriving DecidableEq, Repr

/-- The optional extensions of 00_scope.md R6 that a machine-level field depends on. `extH` and paging are not here:
92_eei_decisions.md D3 and D4 fix them to absent. -/
structure Exts where
  smdbltrp : Bool
  smrnmi : Bool
  ssdbltrp : Bool
  sscofpmf : Bool
  sstc : Bool
  smcdeleg : Bool
  svpbmt : Bool
  svadu : Bool
  svinval : Bool
  zicboz : Bool
  zicbom : Bool
  smnpm : Bool
  smmpm : Bool
  zicfilp : Bool
  zicfiss : Bool
  zkr : Bool
  smepmp : Bool
  extA : Bool
  extF : Bool
  extV : Bool
  /-- The letters B, D, M and Q where `misa` is not implemented. -/
  extB : Bool
  extD : Bool
  extM : Bool
  extQ : Bool
  /-- The words of extensions that no letter of the standard and no flag names: unprivileged ones (Zfh, Zacas, Zbc and so
  on) and non-standard ones (custom-0 to custom-3; letter X). -/
  otherWords : List WordPattern
deriving DecidableEq, Repr

/-- No optional extension: the reference configuration. -/
def Exts.nil : Exts where
  smdbltrp := false
  smrnmi := false
  ssdbltrp := false
  sscofpmf := false
  sstc := false
  smcdeleg := false
  svpbmt := false
  svadu := false
  svinval := false
  zicboz := false
  zicbom := false
  smnpm := false
  smmpm := false
  zicfilp := false
  zicfiss := false
  zkr := false
  smepmp := false
  extA := false
  extF := false
  extV := false
  extB := false
  extD := false
  extM := false
  extQ := false
  otherWords := []

/-- The `A` field of a PMP configuration byte, Table 13 (12_state_config_pmp_mmio.md R213). -/
inductive AddrMode where
  | off
  | tor
  | na4
  | napot
deriving DecidableEq, Repr

/-- One PMP configuration byte (12_state_config_pmp_mmio.md R211); its bits 6:5 read zero. -/
structure PmpCfg where
  r : Bool
  w : Bool
  x : Bool
  a : AddrMode
  l : Bool
deriving DecidableEq, Repr

/-- One PMP entry: `pmpNcfg` and the stored `pmpaddrN` (12_state_config_pmp_mmio.md R210, R214). -/
structure PmpEntry where
  cfg : PmpCfg
  addr : Word
deriving DecidableEq, Repr

/-- An entry that is off, with no permission and address 0. -/
def PmpEntry.off : PmpEntry :=
  { cfg := { r := false, w := false, x := false, a := .off, l := false }, addr := 0 }

/-- The configuration record `cfg` of 00_scope.md R6, in that table's order. -/
structure Cfg where
  mxlen : Xlen
  /-- The legalisers that are not the reference configuration's. -/
  warlKinds : List (WarlField × WarlKind)
  hasU : Bool
  hasS : Bool
  /-- RV32E or RV64E where `misa` is not implemented (10_state.md R21). -/
  baseE : Bool
  misaImpl : Bool
  misaReset : BitVec 26
  misaWmask : BitVec 26
  extC : Bool
  /-- `ILEN`, in bits. -/
  ilen : Nat
  mvendorid : BitVec 32
  marchid : Word
  mimpid : Word
  mhartid : Word
  mconfigptr : Word
  /-- The address of the memory-mapped register whose value `mconfigptr` presents, if it is programmable
  (11_state_trap_csrs.md R161; log entry 42). -/
  mconfigptrAt : Option Nat
  ext : Exts
  mbeKind : EndianKind
  sbeKind : EndianKind
  ubeKind : EndianKind
  sxlKind : XlKind
  uxlKind : XlKind
  fsKind : ContextKind
  vsKind : ContextKind
  /-- `XS_KIND`, and how many additional extensions have state with a status field (10_state.md R65). -/
  xsKind : ContextKind
  xsSources : Nat
  /-- `vlenb`, a constant of the vector unit (log entry 15). -/
  vlenb : Word
  mtvecReset : Word
  medelegWmask : Word
  midelegWmask : Word
  midelegRo1 : Word
  /-- `PLAT_IRQS` in the order of `platIrqPriority`, every cause at least 16. -/
  platIrqs : List Nat
  /-- The platform bits of `mip` that software can write, and so clear (11_state_trap_csrs.md R118). -/
  platSwMask : Word
  msipImpl : Bool
  /-- `HPM_IMPL(n)` is bit n. -/
  hpmImpl : BitVec 32
  mhpmeventWmask : Word
  mhpmcounterWmask : Word
  /-- The unprivileged shadows of Zicntr (`cycle`, `time`, `instret`) and those of Zihpm exist (11_state_trap_csrs.md R133;
  DESIGN CHOICE, log entry 49: 91_not_in_source.md N13 leaves it open). -/
  zicntrImpl : Bool
  zihpmImpl : Bool
  timeCsrImpl : Bool
  mcounterenWmask : BitVec 32
  mcountinhibitImpl : Bool
  mcountinhibitWmask : BitVec 32
  /-- `MCAUSE_LEGAL`: bit c set where `mcause` is guaranteed to hold exception code c. -/
  mcauseLegal : Word
  /-- `mtvalPolicy`: bit c set where code c is informative. -/
  mtvalInformative : Word
  /-- `mtvalPolicy`: bit c set where code c may exhibit either behaviour. -/
  mtvalEither : Word
  pmpN : PmpCount
  pmpG : Nat
  paBits : Nat
  /-- `PMP_RESET(i)`: the first entries' reset values, `PmpEntry.off` beyond (12_state_config_pmp_mmio.md R222). -/
  pmpReset : List PmpEntry
  resetVector : Word
  /-- `RESET_MCAUSE(cause)` for the causes that are distinguished, cause 0 the most complete reset; 0 for any other
  (12_state_config_pmp_mmio.md R241, 70_reset_and_hazards.md R553). -/
  resetMcause : List Word
  nmiImpl : Bool
  nmiVector : Word
  nmiCause : Word
  /-- The RNMI handler address (Smrnmi chapter, 60_exceptions.md R492). -/
  rnmiVector : Word
  wfiKind : WfiKind
  wfiInU : Bool
  twLimit : Nat
  misalignedKind : MisalignedKind
  misalignedFirst : Bool
  mtimeAddr : Nat
  mtimecmpAddr : Nat
  msipAddr : Nat
  /-- `TICK`, the period of `mtime`. Time is the platform's: no step reads it, the ticks are an input
  (12_state_config_pmp_mmio.md R230; log entry 7). -/
  tick : Nat
  pma : List PmaRegion
  fiomImpl : Bool
  /-- `SEED_RESET`: `USEED`, `SSEED`. -/
  useedReset : Bool
  sseedReset : Bool
  /-- The reset values of `mseccfg.MML`, `MMWP` and `RLB` that the platform mandates, 0 unless it does
  (12_state_config_pmp_mmio.md R240, 70_reset_and_hazards.md R550). -/
  mmlReset : Bool
  mmwpReset : Bool
  rlbReset : Bool
  xretClearsReservation : Bool
  /-- The custom SYSTEM words on which `customExec` is defined, and the custom CSRs (44_custom_and_fences.md R431,
  92_eei_decisions.md D29). -/
  customWords : List CustomPattern
  customCsrs : List CustomCsr
  memoryModel : MemoryModel
  mcycleStep : CycleKind
  /-- MTIP, MSIP and `time` follow their sources with zero lag (92_eei_decisions.md D17). -/
  zeroLag : Bool
deriving DecidableEq, Repr

/-- The legaliser of a WARL field; the reference configuration's where `warlKinds` names no other. -/
def Cfg.kind (c : Cfg) (f : WarlField) : WarlKind := (c.warlKinds.lookup f).getD .ref

/-- `RESET_MCAUSE(cause)`. -/
def Cfg.resetCause (c : Cfg) (n : Nat) : Word := (c.resetMcause[n]?).getD 0

/-- The main memory of 95_test_vectors.md section 2.0: 64 KiB, every aligned access, execution. -/
def refMainMemory : PmaRegion where
  base := 0x80000000
  size := 0x10000
  mainMemory := true
  readWidths := [1, 2, 4, 8]
  writeWidths := [1, 2, 4, 8]
  exec := true
  misalignedWidths := []
  misalignedFault := false
  granule := none
  amo := .amoNone
  rsrv := .rsrvNone
  ptwRead := false
  ptwWrite := false
  tso := false
  channel := none
  coherent := true
  cacheable := true
  idempotentReads := true
  idempotentWrites := true

/-- The reference configuration REF (00_scope.md R6, 92_eei_decisions.md D1): RV64, M and U modes, 16 PMP entries, with
the platform addresses that 95_test_vectors.md section 2.0 assumes (DESIGN CHOICE, log entry 5, unsafe). -/
def Cfg.ref : Cfg where
  mxlen := .x64
  warlKinds := []
  hasU := true
  hasS := false
  baseE := false
  misaImpl := true
  misaReset := 0x0100100#26
  misaWmask := 0
  extC := false
  ilen := 32
  mvendorid := 0
  marchid := 0
  mimpid := 0
  mhartid := 0
  mconfigptr := 0
  mconfigptrAt := none
  ext := .nil
  mbeKind := .ro0
  sbeKind := .ro0
  ubeKind := .ro0
  sxlKind := .ro .x64
  uxlKind := .ro .x64
  fsKind := .ro0
  vsKind := .ro0
  xsKind := .ro0
  xsSources := 0
  vlenb := 0
  mtvecReset := 0
  medelegWmask := 0xB3FF
  midelegWmask := 0x222
  midelegRo1 := 0
  platIrqs := []
  platSwMask := 0
  msipImpl := true
  hpmImpl := 0
  mhpmeventWmask := 0
  mhpmcounterWmask := 0xFFFFFFFFFFFFFFFF
  zicntrImpl := true
  zihpmImpl := true
  timeCsrImpl := true
  mcounterenWmask := 7
  mcountinhibitImpl := true
  mcountinhibitWmask := 5
  mcauseLegal := 0x9FF
  mtvalInformative := 0xF7
  mtvalEither := 0
  pmpN := .sixteen
  pmpG := 0
  paBits := 56
  pmpReset := []
  resetVector := 0x80000000
  resetMcause := []
  nmiImpl := false
  nmiVector := 0
  nmiCause := 0x8000000000000000
  rnmiVector := 0
  wfiKind := .free
  wfiInU := true
  twLimit := 0
  misalignedKind := .raiseMisaligned
  misalignedFirst := true
  mtimeAddr := 0x0200BFF8
  mtimecmpAddr := 0x02004000
  msipAddr := 0x02000000
  tick := 1
  pma := [refMainMemory]
  fiomImpl := true
  useedReset := false
  sseedReset := false
  mmlReset := false
  mmwpReset := false
  rlbReset := false
  xretClearsReservation := false
  customWords := []
  customCsrs := []
  memoryModel := .sequential
  mcycleStep := .one
  zeroLag := true

/-- REF with supervisor mode, as vectors V61 to V69 and program P4 take it (00_scope.md R6). -/
def Cfg.refS : Cfg :=
  { Cfg.ref with hasS := true, misaReset := 0x0140100#26, mcauseLegal := 0xBFF }

/-! ### Free values (log entry 8)
Each is read at the model's counter; nothing constrains it. -/

/-- Whether a WFI stalls (43_wfi.md R420, R421). -/
opaque Config.wfiStalls : Nat → Bool

/-- Whether a stalled hart resumes with no cause (43_wfi.md R422). -/
opaque Config.spuriousWake : Nat → Bool

/-- How far `mcycle` advances in a step (11_state_trap_csrs.md R125). -/
opaque Config.cycles : Nat → Word

/-- How many events of an event selector's value counter n sees in a step (11_state_trap_csrs.md R129). -/
opaque Config.hpmEvents : Word → Nat → Nat → Word

/-- Whether a code of policy `either` is informative this time (11_state_trap_csrs.md R150). -/
opaque Config.mtvalChoice : Nat → Bool

/-- Whether a write of the same value, or an access under imprecise tracking, makes FS or VS Dirty (10_state.md R69). -/
opaque Config.dirtyChoice : Nat → Bool

/-- The value read from `seed` (12_state_config_pmp_mmio.md R193, R194; the entropy source is out of scope). -/
opaque Config.seedValue : Nat → Word

/-- The values that a legaliser other than REF's calls legal (00_scope.md R10). -/
opaque Config.warlLegal : WarlField → Word → Bool

/-- What a legaliser other than REF's makes of a value that is not legal: of the field, the old and the written value
(00_scope.md R10). -/
opaque Config.warl : WarlField → Word → Word → Word

/-- What a counter holds in the critical-error state (60_exceptions.md R493): of its number and the counter. -/
opaque Config.criticalCounter : Nat → Nat → Word

/-- The state of a re-enabled extension (10_state.md R39): of a register's number and the counter. -/
opaque Config.reenabled : Nat → Nat → Word

/-- The addresses of a reservation that a re-enabled A extension holds (10_state.md R39). -/
opaque Config.reenabledReservation : Nat → List Nat

/-- `customExec` where it is defined: of the instruction word and the counter, so that it may differ with every state
(44_custom_and_fences.md R431; log entry 19). -/
opaque Config.customExec : BitVec 32 → Nat → CustomResult

/-- The value of a custom CSR, its status field apart (44_custom_and_fences.md R431). -/
opaque Config.customCsr : BitVec 12 → Nat → Word

/-- The landing-pad bits ELP (0), MPELP (1) and SPELP (2) that a trap or trap return leaves, and the ELP that an indirect jump
or LPAD leaves (91_not_in_source.md N9, N22; log entry 12). -/
opaque Config.landingPad : Nat → Nat → Bool

/-- Whether the part of a decomposed store before its failing part becomes visible (20_memory.md R272). -/
opaque Config.partialStore : Nat → Bool

/-- Whether a HINT under a narrow XLEN leaves the upper bits of its register unchanged (10_state.md R54). -/
opaque Config.hintKeepsUpper : Nat → Bool

end Sys2Proof
end

