-- ==== Sys2Proof/Syntax.lean ====
section
/-! DEFINITION. The instructions of spec/opcode_table.json, one constructor per row, with the operand fields of
30_encoding.md R335. -/

namespace Sys2Proof

/-- One constructor per row of spec/opcode_table.json. A custom SYSTEM row (44_custom_and_fences.md R430) carries its two
free fields: `hi` is bits 25:15, `lo` is bits 11:7. -/
inductive Instr where
  /-- CSRRW rd, csr, rs1 (R376). -/
  | csrrw (rd rs1 : BitVec 5) (csr : BitVec 12)
  /-- CSRRS rd, csr, rs1 (R377). -/
  | csrrs (rd rs1 : BitVec 5) (csr : BitVec 12)
  /-- CSRRC rd, csr, rs1 (R378). -/
  | csrrc (rd rs1 : BitVec 5) (csr : BitVec 12)
  /-- CSRRWI rd, csr, uimm (R379). -/
  | csrrwi (rd uimm : BitVec 5) (csr : BitVec 12)
  /-- CSRRSI rd, csr, uimm (R380). -/
  | csrrsi (rd uimm : BitVec 5) (csr : BitVec 12)
  /-- CSRRCI rd, csr, uimm (R381). -/
  | csrrci (rd uimm : BitVec 5) (csr : BitVec 12)
  /-- ECALL (R400). -/
  | ecall
  /-- EBREAK (R402). -/
  | ebreak
  /-- SRET (R413). -/
  | sret
  /-- MRET (R411). -/
  | mret
  /-- MNRET (R417). -/
  | mnret
  /-- WFI (R420). -/
  | wfi
  /-- SFENCE.VMA rs1, rs2 (R434). -/
  | sfenceVma (rs1 rs2 : BitVec 5)
  /-- SINVAL.VMA rs1, rs2 (R435). -/
  | sinvalVma (rs1 rs2 : BitVec 5)
  /-- Custom SYSTEM, funct6=100011, unprivileged (R430). -/
  | custom100011 (hi : BitVec 11) (lo : BitVec 5)
  /-- Custom SYSTEM, funct6=110011, unprivileged (R430). -/
  | custom110011 (hi : BitVec 11) (lo : BitVec 5)
  /-- Custom SYSTEM, funct6=100111, supervisor (R430). -/
  | custom100111 (hi : BitVec 11) (lo : BitVec 5)
  /-- Custom SYSTEM, funct6=110111, supervisor (R430). -/
  | custom110111 (hi : BitVec 11) (lo : BitVec 5)
  /-- Custom SYSTEM, funct6=101011, HS (R430). -/
  | custom101011 (hi : BitVec 11) (lo : BitVec 5)
  /-- Custom SYSTEM, funct6=111011, HS (R430). -/
  | custom111011 (hi : BitVec 11) (lo : BitVec 5)
  /-- Custom SYSTEM, funct6=101111, machine (R430). -/
  | custom101111 (hi : BitVec 11) (lo : BitVec 5)
  /-- Custom SYSTEM, funct6=111111, machine (R430). -/
  | custom111111 (hi : BitVec 11) (lo : BitVec 5)
  /-- C.EBREAK, 16 bits (R405). -/
  | cEbreak
deriving DecidableEq, Repr

/-- The length of an instruction in bytes (30_encoding.md R330). -/
def Instr.size : Instr → Nat
  | .cEbreak => 2
  | _ => 4

end Sys2Proof
end

