-- ==== Sys2Proof/WellFormed.lean ====
section
/-! DEFINITION. Which instructions are encodings of the hart as it is configured now, and which are reserved
(30_encoding.md R345, 10_state.md R37): operand fields fit by their types, so a check is about the features present. -/

namespace Sys2Proof

/-- The features of the hart that decide whether an encoding of the opcode table is reserved. -/
structure Features where
  hasS : Bool
  smrnmi : Bool
  svinval : Bool
  extC : Bool
  /-- The custom SYSTEM words that the implementation defines and whose units are not Off (44_custom_and_fences.md R431,
  10_state.md R67). -/
  customWords : List CustomPattern
  /-- RV32E or RV64E: sixteen integer registers (10_state.md R21). -/
  rvE : Bool
deriving DecidableEq, Repr

/-- An integer register number exists: below 16 under RV32E and RV64E (10_state.md R21; DEDUCED, log entry 20). -/
def regExists (f : Features) (r : BitVec 5) : Bool :=
  !f.rvE || r.toNat < 16

/-- The implementation defines a custom SYSTEM word (44_custom_and_fences.md R431). -/
def customDefined (f : Features) (f6 : BitVec 6) (hi : BitVec 11) (lo : BitVec 5) : Bool :=
  f.customWords.any (fun p => p.fits f6 hi lo)

/-- The encoding is not reserved: its extension is present (30_encoding.md R345) and its registers exist. -/
def Instr.wellFormed (f : Features) : Instr → Bool
  | .csrrw rd rs1 _ => regExists f rd && regExists f rs1
  | .csrrs rd rs1 _ => regExists f rd && regExists f rs1
  | .csrrc rd rs1 _ => regExists f rd && regExists f rs1
  | .csrrwi rd _ _ => regExists f rd
  | .csrrsi rd _ _ => regExists f rd
  | .csrrci rd _ _ => regExists f rd
  | .ecall => true
  | .ebreak => true
  | .sret => f.hasS
  | .mret => true
  | .mnret => f.smrnmi
  | .wfi => true
  | .sfenceVma rs1 rs2 => f.hasS && regExists f rs1 && regExists f rs2
  | .sinvalVma rs1 rs2 => f.hasS && f.svinval && regExists f rs1 && regExists f rs2
  | .custom100011 hi lo => customDefined f 0b100011 hi lo
  | .custom110011 hi lo => customDefined f 0b110011 hi lo
  | .custom100111 hi lo => customDefined f 0b100111 hi lo
  | .custom110111 hi lo => customDefined f 0b110111 hi lo
  | .custom101011 hi lo => customDefined f 0b101011 hi lo
  | .custom111011 hi lo => customDefined f 0b111011 hi lo
  | .custom101111 hi lo => customDefined f 0b101111 hi lo
  | .custom111111 hi lo => customDefined f 0b111111 hi lo
  | .cEbreak => f.extC

end Sys2Proof
end

