-- ==== Sys2Proof/Decode.lean ====
section
/-! DEFINITION. The decoder of 30_encoding.md R336, R338, total on any bytes and rejecting by name, and the encoder
written from the same table. An instruction word is 32 bits; a 16-bit instruction stands zero-extended in it. -/

namespace Sys2Proof

/-- Why bytes are no instruction of the opcode table. -/
inductive DecodeError where
  /-- Fewer bytes than the instruction's length. -/
  | truncated
  /-- Not the SYSTEM major opcode: a word of Volume I (10_state.md R23). -/
  | notSystem
  /-- A SYSTEM word that no row of R336 matches (30_encoding.md R345). -/
  | reserved
deriving DecidableEq, Repr

/-! ### Fields (30_encoding.md R335) -/

/-- Bits 6:0. -/
def opcodeOf (w : BitVec 32) : BitVec 7 := w.extractLsb' 0 7
/-- Bits 11:7. -/
def rdOf (w : BitVec 32) : BitVec 5 := w.extractLsb' 7 5
/-- Bits 14:12. -/
def funct3Of (w : BitVec 32) : BitVec 3 := w.extractLsb' 12 3
/-- Bits 19:15, also `uimm`. -/
def rs1Of (w : BitVec 32) : BitVec 5 := w.extractLsb' 15 5
/-- Bits 24:20. -/
def rs2Of (w : BitVec 32) : BitVec 5 := w.extractLsb' 20 5
/-- Bits 31:25. -/
def funct7Of (w : BitVec 32) : BitVec 7 := w.extractLsb' 25 7
/-- Bits 31:20, also `funct12`. -/
def csrOf (w : BitVec 32) : BitVec 12 := w.extractLsb' 20 12
/-- Bits 31:26. -/
def funct6Of (w : BitVec 32) : BitVec 6 := w.extractLsb' 26 6
/-- Bits 25:15, the upper free field of a custom SYSTEM word (Figure 28). -/
def customHiOf (w : BitVec 32) : BitVec 11 := w.extractLsb' 15 11

/-- The SYSTEM major opcode. -/
def systemOpcode : BitVec 7 := 0b1110011

/-! ### Decoder -/

/-- The custom SYSTEM row of a funct6 value (44_custom_and_fences.md R430, Figure 28). -/
def decodeCustom (w : BitVec 32) : Except DecodeError Instr :=
  let hi := customHiOf w
  let lo := rdOf w
  if funct6Of w = 0b100011 then .ok (.custom100011 hi lo)
  else if funct6Of w = 0b110011 then .ok (.custom110011 hi lo)
  else if funct6Of w = 0b100111 then .ok (.custom100111 hi lo)
  else if funct6Of w = 0b110111 then .ok (.custom110111 hi lo)
  else if funct6Of w = 0b101011 then .ok (.custom101011 hi lo)
  else if funct6Of w = 0b111011 then .ok (.custom111011 hi lo)
  else if funct6Of w = 0b101111 then .ok (.custom101111 hi lo)
  else if funct6Of w = 0b111111 then .ok (.custom111111 hi lo)
  else .error .reserved

/-- The rows with funct3 = 0 (PRIV, 30_encoding.md R331, R336). -/
def decodePriv (w : BitVec 32) : Except DecodeError Instr :=
  if w = 0x00000073#32 then .ok .ecall
  else if w = 0x00100073#32 then .ok .ebreak
  else if w = 0x10200073#32 then .ok .sret
  else if w = 0x30200073#32 then .ok .mret
  else if w = 0x70200073#32 then .ok .mnret
  else if w = 0x10500073#32 then .ok .wfi
  else if funct7Of w = 0b0001001 ∧ rdOf w = 0 then .ok (.sfenceVma (rs1Of w) (rs2Of w))
  else if funct7Of w = 0b0001011 ∧ rdOf w = 0 then .ok (.sinvalVma (rs1Of w) (rs2Of w))
  else decodeCustom w

/-- The rows of the SYSTEM major opcode by funct3 (30_encoding.md R338; funct3 = 100 is reserved, R382). -/
def decodeSystem (w : BitVec 32) : Except DecodeError Instr :=
  if funct3Of w = 0b001 then .ok (.csrrw (rdOf w) (rs1Of w) (csrOf w))
  else if funct3Of w = 0b010 then .ok (.csrrs (rdOf w) (rs1Of w) (csrOf w))
  else if funct3Of w = 0b011 then .ok (.csrrc (rdOf w) (rs1Of w) (csrOf w))
  else if funct3Of w = 0b101 then .ok (.csrrwi (rdOf w) (rs1Of w) (csrOf w))
  else if funct3Of w = 0b110 then .ok (.csrrsi (rdOf w) (rs1Of w) (csrOf w))
  else if funct3Of w = 0b111 then .ok (.csrrci (rdOf w) (rs1Of w) (csrOf w))
  else if funct3Of w = 0b000 then decodePriv w
  else .error .reserved

/-- Decodes one instruction word; a 16-bit instruction is zero-extended (30_encoding.md R330, R338). -/
def decodeWord (w : BitVec 32) : Except DecodeError Instr :=
  if w = 0x00009002#32 then .ok .cEbreak
  else if opcodeOf w = systemOpcode then decodeSystem w
  else .error .notSystem

/-- The little-endian 16 bits of two bytes (20_memory.md R252). -/
def halfOfBytes (b0 b1 : Byte) : BitVec 16 := b1 ++ b0

/-- The little-endian word of four bytes (20_memory.md R252). -/
def wordOfBytes (b0 b1 b2 b3 : Byte) : BitVec 32 := b3 ++ b2 ++ b1 ++ b0

/-- A word whose low two bits are 11 is 32 bits long (30_encoding.md R330). -/
def isLong (b0 : Byte) : Bool := b0.extractLsb' 0 2 == 0b11

/-- Decodes the instruction at the head of a list of bytes, lowest address first, and returns the rest. -/
def decodeBytes : List Byte → Except DecodeError (Instr × List Byte)
  | b0 :: b1 :: rest =>
    if isLong b0 then
      match rest with
      | b2 :: b3 :: rest' => (decodeWord (wordOfBytes b0 b1 b2 b3)).map (fun i => (i, rest'))
      | _ => .error .truncated
    else (decodeWord ((halfOfBytes b0 b1).setWidth 32)).map (fun i => (i, rest))
  | _ => .error .truncated

/-- The four bytes of a number's low 32 bits, lowest first. -/
def bytesOfWord (w : BitVec 32) : List Byte :=
  [w.extractLsb' 0 8, w.extractLsb' 8 8, w.extractLsb' 16 8, w.extractLsb' 24 8]

/-- The instruction the decoder reads from an instruction whose low `nbits` bits are w and whose other bits are 0,
laid out in memory order. -/
def decodeTableWord (nbits w : Nat) : Option Instr :=
  match decodeBytes (bytesOfWord (BitVec.ofNat 32 (w % 2 ^ nbits))) with
  | .ok (i, _) => some i
  | .error _ => none

/-! ### Encoder -/

/-- An I-format SYSTEM word (30_encoding.md R335, R337). -/
def encodeI (imm : BitVec 12) (rs1 : BitVec 5) (f3 : BitVec 3) (rd : BitVec 5) : BitVec 32 :=
  imm ++ rs1 ++ f3 ++ rd ++ systemOpcode

/-- An R-format SYSTEM word with funct3 = 0 and rd = 0. -/
def encodeR (f7 : BitVec 7) (rs2 rs1 : BitVec 5) : BitVec 32 :=
  f7 ++ rs2 ++ rs1 ++ 0#3 ++ 0#5 ++ systemOpcode

/-- A custom SYSTEM word (Figure 28). -/
def encodeCustom (f6 : BitVec 6) (hi : BitVec 11) (lo : BitVec 5) : BitVec 32 :=
  f6 ++ hi ++ 0#3 ++ lo ++ systemOpcode

/-- The word of an instruction, a 16-bit one zero-extended (30_encoding.md R336). -/
def encode : Instr → BitVec 32
  | .csrrw rd rs1 csr => encodeI csr rs1 0b001 rd
  | .csrrs rd rs1 csr => encodeI csr rs1 0b010 rd
  | .csrrc rd rs1 csr => encodeI csr rs1 0b011 rd
  | .csrrwi rd uimm csr => encodeI csr uimm 0b101 rd
  | .csrrsi rd uimm csr => encodeI csr uimm 0b110 rd
  | .csrrci rd uimm csr => encodeI csr uimm 0b111 rd
  | .ecall => encodeI 0x000 0 0 0
  | .ebreak => encodeI 0x001 0 0 0
  | .sret => encodeI 0x102 0 0 0
  | .mret => encodeI 0x302 0 0 0
  | .mnret => encodeI 0x702 0 0 0
  | .wfi => encodeI 0x105 0 0 0
  | .sfenceVma rs1 rs2 => encodeR 0b0001001 rs2 rs1
  | .sinvalVma rs1 rs2 => encodeR 0b0001011 rs2 rs1
  | .custom100011 hi lo => encodeCustom 0b100011 hi lo
  | .custom110011 hi lo => encodeCustom 0b110011 hi lo
  | .custom100111 hi lo => encodeCustom 0b100111 hi lo
  | .custom110111 hi lo => encodeCustom 0b110111 hi lo
  | .custom101011 hi lo => encodeCustom 0b101011 hi lo
  | .custom111011 hi lo => encodeCustom 0b111011 hi lo
  | .custom101111 hi lo => encodeCustom 0b101111 hi lo
  | .custom111111 hi lo => encodeCustom 0b111111 hi lo
  | .cEbreak => 0x9002#32

/-- The bytes of an instruction in memory order: `Instr.size` of them. -/
def encodeBytes (i : Instr) : List Byte :=
  (bytesOfWord (encode i)).take i.size

end Sys2Proof
end

