-- ==== Sys2Proof/Machine/Bits.lean ====
section
/-! DEFINITION. Bit fields, halves and widths of register values (00_scope.md R7, R8, R12; 10_state.md R22, R53). -/

namespace Sys2Proof.Machine

/-- The low XLEN bits of a value, zero above (10_state.md R53). -/
def narrow (x : Xlen) (v : Word) : Word :=
  match x with
  | .x64 => v
  | .x32 => (v.setWidth 32).setWidth 64

/-- `sext_MXLEN(v[XLEN-1:0])`, in the storage of a hart with the given MXLEN (10_state.md R22, R53). -/
def widen (mx x : Xlen) (v : Word) : Word :=
  match mx, x with
  | .x32, _ => narrow .x32 v
  | .x64, .x64 => v
  | .x64, .x32 => (v.setWidth 32).signExtend 64

/-- One bit at position i. -/
def flag (b : Bool) (i : Nat) : Word := (BitVec.ofBool b).setWidth 64 <<< i

/-- A two-bit field at position i. -/
def pair (v : BitVec 2) (i : Nat) : Word := v.setWidth 64 <<< i

/-- The two bits at position i. -/
def pairAt (w : Word) (i : Nat) : BitVec 2 := w.extractLsb' i 2

/-- Bits 31:0. -/
def lowHalf (v : Word) : Word := (v.setWidth 32).setWidth 64

/-- Bits 63:32. -/
def highHalf (v : Word) : Word := v >>> 32

/-- Bits 31:0 replaced (11_state_trap_csrs.md R131). -/
def setLow (old v : Word) : Word := highHalf old <<< 32 ||| lowHalf v

/-- Bits 63:32 replaced (11_state_trap_csrs.md R131). -/
def setHigh (old v : Word) : Word := lowHalf v <<< 32 ||| lowHalf old

/-- A register of 64 bits that a hart with MXLEN=32 reaches through its low half only (11_state_trap_csrs.md R111, R131). -/
def writeLow (mx : Xlen) (old v : Word) : Word :=
  match mx with
  | .x64 => v
  | .x32 => setLow old v

/-- The bits of a 64-bit register that its main name reaches (11_state_trap_csrs.md R131, 12_state_config_pmp_mmio.md R186,
R204). -/
def lowMask : Xlen → Word
  | .x64 => 0xFFFFFFFFFFFFFFFF
  | .x32 => 0xFFFFFFFF

/-- The bits that the `h` form of a register reaches. -/
def highMask : Word := 0xFFFFFFFF00000000

/-- The bits that a write of a register, or of its `h` form, reaches. -/
def reachedBits (x : Xlen) (high : Bool) : Word := if high then highMask else lowMask x

/-- The masked bits of a value, the others as they were. -/
def withBits (m old v : Word) : Word := (old &&& ~~~m) ||| (v &&& m)

/-- The mask with one bit set for each cause of a list. -/
def causeMask : List Nat → Word
  | [] => 0
  | i :: is => flag true i ||| causeMask is

/-- The number of consecutive one bits of a number from bit 0 on, at most `fuel` (00_scope.md R8, `ctz1`). -/
def trailingOnes : Nat → Nat → Nat
  | 0, _ => 0
  | fuel + 1, v => if v % 2 = 1 then trailingOnes fuel (v / 2) + 1 else 0

/-- The value of a list of bytes, the least significant first (20_memory.md R251). -/
def bytesToNat : List Byte → Nat
  | [] => 0
  | b :: bs => b.toNat + 256 * bytesToNat bs

/-- The n low bytes of a value, the least significant first (20_memory.md R251). -/
def natToBytes : Nat → Nat → List Byte
  | 0, _ => []
  | n + 1, v => BitVec.ofNat 8 v :: natToBytes n (v / 256)

end Sys2Proof.Machine
end

