-- ==== Sys2Proof/Machine/State.lean ====
section
/-! DEFINITION. The state of one hart and of the platform it sees (10_state.md R20), as plain data; the reasons a step
stops; the machine right after reset (12_state_config_pmp_mmio.md R240, 70_reset_and_hazards.md R550). -/

namespace Sys2Proof.Machine

/-- The stored fields of `mstatus` and `mstatush` (10_state.md R46, R47). `SD` and `XS`
are computed, never stored (R65, R66). -/
structure Mstatus where
  sie : Bool
  mie : Bool
  spie : Bool
  ube : Bool
  mpie : Bool
  /-- The previous mode of a trap into S is S (else U), R50. -/
  spp : Bool
  vs : BitVec 2
  mpp : Priv
  fs : BitVec 2
  mprv : Bool
  sum : Bool
  mxr : Bool
  tvm : Bool
  tw : Bool
  tsr : Bool
  spelp : Bool
  sdt : Bool
  uxl : Xlen
  sxl : Xlen
  sbe : Bool
  mbe : Bool
  mpelp : Bool
  mdt : Bool
deriving DecidableEq, Repr

/-- The fields of `menvcfg` (12_state_config_pmp_mmio.md R170). -/
structure Menvcfg where
  fiom : Bool
  lpe : Bool
  sse : Bool
  cbie : BitVec 2
  cbcfe : Bool
  cbze : Bool
  pmm : BitVec 2
  dte : Bool
  cde : Bool
  adue : Bool
  pbmte : Bool
  stce : Bool
deriving DecidableEq, Repr

/-- Every field 0, as after reset (DESIGN CHOICE, log entry 2). -/
def Menvcfg.zero : Menvcfg where
  fiom := false
  lpe := false
  sse := false
  cbie := 0
  cbcfe := false
  cbze := false
  pmm := 0
  dte := false
  cde := false
  adue := false
  pbmte := false
  stce := false

/-- The fields of `senvcfg` (12_state_config_pmp_mmio.md R185 names `SSE`; the others PRESUMED, log entry 44). -/
structure Senvcfg where
  fiom : Bool
  lpe : Bool
  sse : Bool
  cbie : BitVec 2
  cbcfe : Bool
  cbze : Bool
  pmm : BitVec 2
deriving DecidableEq, Repr

/-- The fields of `mseccfg` (12_state_config_pmp_mmio.md R190). -/
structure Mseccfg where
  mml : Bool
  mmwp : Bool
  rlb : Bool
  useed : Bool
  sseed : Bool
  mlpe : Bool
  pmm : BitVec 2
deriving DecidableEq, Repr

/-- The machine-level control and status registers (10_state.md R24), the counters and PMP apart. -/
structure Csrs where
  /-- `misa.Extensions` (R30). -/
  misa : BitVec 26
  mstatus : Mstatus
  mtvec : Word
  medeleg : Word
  mideleg : Word
  mie : Word
  /-- The software-writable part of `mip.SEIP` (11_state_trap_csrs.md R119). -/
  seipSw : Bool
  /-- The stored `mip.STIP`, read where `stimecmp` does not drive it (R120). -/
  stip : Bool
  ssip : Bool
  lcofip : Bool
  /-- The software-written platform bits of `mip` (R118). -/
  platSw : Word
  mcounteren : BitVec 32
  mcountinhibit : BitVec 32
  mscratch : Word
  mepc : Word
  mcause : Word
  mtval : Word
  menvcfg : Menvcfg
  mseccfg : Mseccfg
deriving DecidableEq, Repr

/-- The counters and event selectors (11_state_trap_csrs.md R125 to R131); index j is counter j+3. -/
structure Counters where
  mcycle : Word
  minstret : Word
  hpmcounter : Vector Word 29
  hpmevent : Vector Word 29
deriving DecidableEq, Repr

/-- The supervisor registers the source names (10_state.md R24, 60_exceptions.md R481, 40_csr_access.md R374). -/
structure Supervisor where
  stvec : Word
  sepc : Word
  scause : Word
  stval : Word
  scounteren : BitVec 32
  satp : Word
  stimecmp : Word
  senvcfg : Senvcfg
deriving DecidableEq, Repr

/-- The Smrnmi registers the source names (60_exceptions.md R492, R503; log entry 13). -/
structure Rnmi where
  mnepc : Word
  mncause : Word
  mnpp : Priv
  nmie : Bool
deriving DecidableEq, Repr

/-- The control registers behind `FS` and `VS` (10_state.md R62; log entry 15), and the status of each additional
extension with state, which `XS` summarises (10_state.md R65). -/
structure Units where
  fcsr : BitVec 8
  vstart : Word
  vxrm : BitVec 2
  vxsat : Bool
  vl : Word
  vtype : Word
  statuses : List (BitVec 2)
deriving DecidableEq, Repr

/-- The waiting state of WFI (10_state.md R20, 43_wfi.md R421, R423): `stalled`, and while a timed WFI waits, how many
more idle steps it may wait. -/
structure Wait where
  stalled : Bool
  timer : Option Nat
deriving DecidableEq, Repr

/-- Not waiting. -/
def Wait.running : Wait := { stalled := false, timer := none }

/-- The platform registers and the levels the hart sees (12_state_config_pmp_mmio.md R230 to R236, 00_scope.md R6). -/
structure Platform where
  mtime : Word
  mtimecmp : Word
  /-- Bit 0 of `msip` (R235). -/
  msip : Bool
  /-- The `MTIP` and `MSIP` bits and the value `time` shows, where the configuration lets them lag (R232, R235, R236). -/
  mtip : Bool
  msipSeen : Bool
  timeSeen : Word
  mei : Bool
  sei : Bool
  /-- Levels of the platform interrupts whose bits of `mip` are read-only, bit i for cause i (11_state_trap_csrs.md R116, R118). -/
  irqs : Word
deriving DecidableEq, Repr

/-- What the platform presents to one step (00_scope.md R6, second table; log entry 7). -/
structure PlatIn where
  /-- A reset request, with its cause (70_reset_and_hazards.md R553). -/
  reset : Option Nat
  nmi : Bool
  mei : Bool
  sei : Bool
  irqs : Word
  ssiSet : Bool
  /-- Requests to set bits of `mip` that the platform has and software can clear (11_state_trap_csrs.md R118; log entry 36). -/
  irqSet : Word
  /-- A hardware error met by this step's instruction, with the address accessed (11_state_trap_csrs.md R156). -/
  hwError : Option Word
  /-- How many ticks `mtime` makes before this step (12_state_config_pmp_mmio.md R230). -/
  ticks : Nat
  /-- `sync_mtip`, `sync_msip` and the `time` shadow happen before this step (R232, R235, R236). -/
  sync : Bool
  /-- Bytes stored by other harts and devices before this step. -/
  stores : List Host.Cell
deriving DecidableEq, Repr

/-- The state of the machine: the hart, the platform it sees, memory, and the configuration. -/
structure State where
  cfg : Cfg
  priv : Priv
  pc : Word
  /-- Slot 0 is never read or written (10_state.md R21). -/
  x : Vector Word 32
  csr : Csrs
  cnt : Counters
  sup : Supervisor
  rnmi : Rnmi
  units : Units
  pmp : Vector PmpEntry 64
  wait : Wait
  criticalError : Bool
  /-- The set of addresses of the LR/SC reservation, if one is held (10_state.md R20). -/
  reservation : Option (List Nat)
  elp : Bool
  plat : Platform
  /-- The platform inputs of the coming steps, the next one first (log entry 7). -/
  inputs : List PlatIn
  /-- Bytes at physical addresses, addresses strictly rising, no zero byte listed (log entry 4). -/
  mem : List Host.Cell
  /-- The counter at which the step reads its free values (log entry 8). -/
  ctr : Nat
deriving DecidableEq, Repr

/-- Why the machine stops with a fault. Every fault of the spec itself is an exception that is taken. -/
inductive Fault where
  /-- An access to a region whose PMA says incoherent: the source leaves its memory model to the implementation
  (20_memory.md R266; 93_implementation_defined.md A.2: refuse). Raised by a fetch, load or store. Safe. -/
  | incoherentMemory (address : Nat)
deriving DecidableEq, Repr

/-- Why an instruction has no meaning here. -/
inductive Refusal where
  /-- An instruction of the table whose meaning is not written; raised by `exec`'s arm alone. Safe. -/
  | notModelled (mnemonic : String)
  /-- A word outside the opcode table and RV32I, RV64I, RV32E and RV64E, of an extension that is present: its meaning is
  in Volume I or another chapter, not in the source (00_scope.md R5 (a), 93_implementation_defined.md A.3); raised by the
  step. Safe. -/
  | unprivileged (word : BitVec 32)
deriving DecidableEq, Repr

/-- Puts the platform's reset entries into the PMP from index i on. -/
def resetPmpFrom : Nat → List PmpEntry → Vector PmpEntry 64 → Vector PmpEntry 64
  | _, [], v => v
  | i, e :: es, v => resetPmpFrom (i + 1) es (v.setIfInBounds i e)

/-- The width a read-only or writable XL field starts with. -/
def initialXl (k : XlKind) (full : Xlen) : Xlen :=
  match k with
  | .ro x => x
  | _ => full

/-- `mstatus` after reset (70_reset_and_hazards.md R550): MIE, MPRV, MBE 0 and MDT 1; every other field is a value the
model names (DESIGN CHOICE, log entry 2). -/
def Mstatus.resetFor (c : Cfg) : Mstatus where
  sie := false
  mie := false
  spie := false
  ube := false
  mpie := false
  spp := false
  vs := 0
  mpp := if c.hasU then .u else .m
  fs := 0
  mprv := false
  sum := false
  mxr := false
  tvm := false
  tw := false
  tsr := false
  spelp := false
  sdt := false
  uxl := if c.hasS && initialXl c.sxlKind c.mxlen == .x32 then .x32 else initialXl c.uxlKind c.mxlen
  sxl := initialXl c.sxlKind c.mxlen
  sbe := false
  mbe := false
  mpelp := false
  mdt := true

/-- The machine-level registers after reset; what the platform mandates for `mseccfg` is the configuration's
(12_state_config_pmp_mmio.md R240). -/
def Csrs.resetFor (c : Cfg) : Csrs where
  misa := c.misaReset
  mstatus := Mstatus.resetFor c
  mtvec := c.mtvecReset
  medeleg := 0
  mideleg := c.midelegRo1
  mie := 0
  seipSw := false
  stip := false
  ssip := false
  lcofip := false
  platSw := 0
  mcounteren := 0
  mcountinhibit := 0
  mscratch := 0
  mepc := 0
  mcause := narrow c.mxlen (c.resetCause 0)
  mtval := 0
  menvcfg := .zero
  mseccfg :=
    { mml := c.mmlReset, mmwp := c.mmwpReset, rlb := c.rlbReset, useed := c.useedReset, sseed := c.sseedReset
      mlpe := false, pmm := 0 }

/-- The platform as the model starts it: the source states nothing (DESIGN CHOICE, log entry 3). -/
def Platform.initial : Platform where
  mtime := 0
  mtimecmp := 0xFFFFFFFFFFFFFFFF
  msip := false
  mtip := false
  msipSeen := false
  timeSeen := 0
  mei := false
  sei := false
  irqs := 0

/-- The machine right after reset in a configuration (12_state_config_pmp_mmio.md R240, 70_reset_and_hazards.md R550). -/
def State.resetFor (c : Cfg) : State where
  cfg := c
  priv := .m
  pc := c.resetVector
  x := Vector.replicate 32 0
  csr := Csrs.resetFor c
  cnt := { mcycle := 0, minstret := 0, hpmcounter := Vector.replicate 29 0, hpmevent := Vector.replicate 29 0 }
  sup :=
    { stvec := 0, sepc := 0, scause := 0, stval := 0, scounteren := 0, satp := 0, stimecmp := 0
      senvcfg :=
        { fiom := false, lpe := false, sse := false, cbie := 0, cbcfe := false, cbze := false, pmm := 0 } }
  rnmi := { mnepc := 0, mncause := 0, mnpp := .m, nmie := false }
  units := { fcsr := 0, vstart := 0, vxrm := 0, vxsat := false, vl := 0, vtype := 0,
             statuses := List.replicate c.xsSources 0 }
  pmp := resetPmpFrom 0 c.pmpReset (Vector.replicate 64 PmpEntry.off)
  wait := .running
  criticalError := false
  reservation := none
  elp := false
  plat := .initial
  inputs := []
  mem := []
  ctr := 0

/-- The machine right after reset, in the reference configuration. -/
def State.reset : State := State.resetFor Cfg.ref

end Sys2Proof.Machine
end

