-- ==== Sys2Proof/Machine/Update.lean ====
section
/-! DEFINITION. One named update per field of State; the operations are written with them. -/

namespace Sys2Proof.Machine

/-- `priv` replaced. -/
def State.setPriv (s : State) (v : Priv) : State := { s with priv := v }

/-- `pc` replaced. -/
def State.setPc (s : State) (v : Word) : State := { s with pc := v }

/-- `x` replaced. -/
def State.setXs (s : State) (v : Vector Word 32) : State := { s with x := v }

/-- `csr` replaced. -/
def State.setCsr (s : State) (v : Csrs) : State := { s with csr := v }

/-- `cnt` replaced. -/
def State.setCnt (s : State) (v : Counters) : State := { s with cnt := v }

/-- `sup` replaced. -/
def State.setSup (s : State) (v : Supervisor) : State := { s with sup := v }

/-- `rnmi` replaced. -/
def State.setRnmi (s : State) (v : Rnmi) : State := { s with rnmi := v }

/-- `units` replaced. -/
def State.setUnits (s : State) (v : Units) : State := { s with units := v }

/-- `pmp` replaced. -/
def State.setPmp (s : State) (v : Vector PmpEntry 64) : State := { s with pmp := v }

/-- `wait` replaced. -/
def State.setWait (s : State) (v : Wait) : State := { s with wait := v }

/-- `criticalError` replaced. -/
def State.setCriticalError (s : State) (v : Bool) : State := { s with criticalError := v }

/-- `reservation` replaced. -/
def State.setReservation (s : State) (v : Option (List Nat)) : State := { s with reservation := v }

/-- `elp` replaced. -/
def State.setElp (s : State) (v : Bool) : State := { s with elp := v }

/-- `plat` replaced. -/
def State.setPlat (s : State) (v : Platform) : State := { s with plat := v }

/-- `inputs` replaced. -/
def State.setInputs (s : State) (v : List PlatIn) : State := { s with inputs := v }

/-- `mem` replaced. -/
def State.setMem (s : State) (v : List Host.Cell) : State := { s with mem := v }

/-- `ctr` replaced. -/
def State.setCtr (s : State) (v : Nat) : State := { s with ctr := v }

/-- `mstatus` replaced. -/
def State.setMstatus (s : State) (m : Mstatus) : State := s.setCsr { s.csr with mstatus := m }

end Sys2Proof.Machine
end

