-- ==== Sys2Proof/Machine/Features.lean ====
section
/-! DEFINITION. What the hart is right now: modes and extensions as `misa` enables them (10_state.md R37, R40), the
effective XLEN of a mode (R52), the features an encoding needs, and the views of `menvcfg` and `mseccfg`. -/

namespace Sys2Proof.Machine

/-- A letter of `misa` where it is implemented, else the given parameter (10_state.md R40). -/
def State.letter (s : State) (i : Nat) (fixed : Bool) : Bool :=
  if s.cfg.misaImpl then s.csr.misa.getLsbD i else fixed

/-- What a WARL field of a configuration holds after a write: REF cuts the written value to what the rules call legal; an
implementation stores a value that is legal (unchanged by the cut, and one that the rules oblige the field to hold, `must`,
or legal to the implementation), turns any other into one that is, and else keeps the old one (00_scope.md R10; log
entry 32). -/
def warlChoice (c : Cfg) (f : WarlField) (must : Word → Bool) (cut : Word → Word) (old w : Word) : Word :=
  let legal (v : Word) : Bool := cut v == v && (must v || Config.warlLegal f v)
  let other := cut (Config.warl f old w)
  match c.kind f with
  | .ref => cut w
  | .readOnly => old
  | .impl => if legal w then w else if legal other then other else old

/-- A one-bit WARL field after a write; it holds its reset value 0. -/
def warlBit (c : Cfg) (f : WarlField) (old w : Bool) : Bool :=
  (warlChoice c f (fun v => v == 0) (fun v => v &&& 1) (flag old 0) (flag w 0)).getLsbD 0

/-- A WARL field whose legal values are those within a mask, its reset value 0 among them. -/
def warlMasked (c : Cfg) (f : WarlField) (mask old w : Word) : Word :=
  warlChoice c f (fun v => v == 0) (fun v => v &&& mask) old (w &&& mask)

/-- U-mode is implemented (10_state.md R40). -/
def State.hasU (s : State) : Bool := s.letter 20 s.cfg.hasU

/-- S-mode is implemented; it needs U-mode (10_state.md R35, R40). -/
def State.hasS (s : State) : Bool := s.letter 18 s.cfg.hasS && s.hasU

/-- C is enabled: IALIGN is 16 (30_encoding.md R330). -/
def State.extC (s : State) : Bool := s.letter 2 s.cfg.extC

/-- The A extension is enabled. -/
def State.extA (s : State) : Bool := s.letter 0 s.cfg.ext.extA

/-- The F extension is enabled. -/
def State.extF (s : State) : Bool := s.letter 5 s.cfg.ext.extF

/-- The V extension is enabled. -/
def State.extV (s : State) : Bool := s.letter 21 s.cfg.ext.extV

/-- The B extension is enabled. -/
def State.extB (s : State) : Bool := s.letter 1 s.cfg.ext.extB

/-- The D extension is enabled. -/
def State.extD (s : State) : Bool := s.letter 3 s.cfg.ext.extD

/-- The M extension is enabled. -/
def State.extM (s : State) : Bool := s.letter 12 s.cfg.ext.extM

/-- The Q extension is enabled. -/
def State.extQ (s : State) : Bool := s.letter 16 s.cfg.ext.extQ

/-- RV32E or RV64E is selected: `misa.E` is the complement of `misa.I` (10_state.md R34). -/
def State.rvE (s : State) : Bool :=
  if s.cfg.misaImpl then !s.csr.misa.getLsbD 8 else s.cfg.baseE

/-- A privilege mode is implemented (60_exceptions.md R520). -/
def State.modeExists (s : State) : Priv → Bool
  | .m => true
  | .s => s.hasS
  | .u => s.hasU

/-- The least-privileged implemented mode that a trap return leaves in `MPP` (42_trap_return.md R411). -/
def State.leastMode (s : State) : Priv := if s.hasU then .u else .m

/-- The value an XL field holds: its own, the stored one, or that of S (10_state.md R52). -/
def xlValue (k : XlKind) (stored above : Xlen) : Xlen :=
  match k with
  | .ro x => x
  | .rw => stored
  | .followS => above

/-- SXLEN (10_state.md R52). -/
def State.sxlen (s : State) : Xlen :=
  match s.cfg.mxlen with
  | .x32 => .x32
  | .x64 => xlValue s.cfg.sxlKind s.csr.mstatus.sxl .x64

/-- UXLEN, which is never greater than SXLEN where S-mode is implemented (10_state.md R52). -/
def State.uxlen (s : State) : Xlen :=
  match s.cfg.mxlen with
  | .x32 => .x32
  | .x64 =>
    if s.hasS && s.sxlen == .x32 then .x32
    else xlValue s.cfg.uxlKind s.csr.mstatus.uxl (if s.hasS then s.sxlen else .x64)

/-- The effective XLEN of a mode (00_scope.md R12). -/
def State.xlenOf (s : State) : Priv → Xlen
  | .m => s.cfg.mxlen
  | .s => s.sxlen
  | .u => s.uxlen

/-- The effective XLEN of the current mode (00_scope.md R12). -/
def State.xlen (s : State) : Xlen := s.xlenOf s.priv

/-- The fields of `menvcfg` that a configuration has: those of absent extensions are 0 (12_state_config_pmp_mmio.md R170). -/
def Menvcfg.present (c : Cfg) (m : Menvcfg) : Menvcfg :=
  let e := c.ext
  { fiom := c.fiomImpl && m.fiom
    lpe := e.zicfilp && m.lpe
    sse := e.zicfiss && m.sse
    cbie := if e.zicbom then m.cbie else 0
    cbcfe := e.zicbom && m.cbcfe
    cbze := e.zicboz && m.cbze
    pmm := if e.smnpm && c.mxlen == .x64 then m.pmm else 0
    dte := e.ssdbltrp && m.dte
    cde := e.smcdeleg && m.cde
    adue := e.svadu && m.adue
    pbmte := e.svpbmt && m.pbmte
    stce := e.sstc && m.stce }

/-- `menvcfg` as it reads: all 0 where U-mode, and with it the register, is absent (12_state_config_pmp_mmio.md R170). -/
def State.envcfg (s : State) : Menvcfg := if s.hasU then s.csr.menvcfg.present s.cfg else .zero

/-- `senvcfg` as it reads; `SSE` is read-only zero while `menvcfg.SSE` is 0 (12_state_config_pmp_mmio.md R185; the rest
PRESUMED, log entry 44). -/
def State.senvcfg (s : State) : Senvcfg :=
  let m := s.sup.senvcfg
  let e := s.cfg.ext
  { fiom := s.cfg.fiomImpl && m.fiom
    lpe := e.zicfilp && m.lpe
    sse := e.zicfiss && s.envcfg.sse && m.sse
    cbie := if e.zicbom then m.cbie else 0
    cbcfe := e.zicbom && m.cbcfe
    cbze := e.zicboz && m.cbze
    pmm := if e.smnpm && s.cfg.mxlen == .x64 then m.pmm else 0 }

/-- The fields of `mseccfg` that a configuration has (12_state_config_pmp_mmio.md R190). -/
def Mseccfg.present (c : Cfg) (m : Mseccfg) : Mseccfg :=
  let e := c.ext
  { mml := e.smepmp && m.mml
    mmwp := e.smepmp && m.mmwp
    rlb := e.smepmp && m.rlb
    useed := e.zkr && m.useed
    sseed := e.zkr && m.sseed
    mlpe := e.zicfilp && m.mlpe
    pmm := if e.smmpm && c.mxlen == .x64 then m.pmm else 0 }

/-- `mseccfg` as it reads; `USEED` and `SSEED` are 0 where their mode is absent (12_state_config_pmp_mmio.md R190 to R192). -/
def State.seccfg (s : State) : Mseccfg :=
  let m := s.csr.mseccfg.present s.cfg
  { m with useed := s.hasU && m.useed, sseed := s.hasS && m.sseed }

/-- `mseccfg` exists (12_state_config_pmp_mmio.md R190). -/
def State.hasSeccfg (s : State) : Bool :=
  s.cfg.ext.zkr || s.cfg.ext.smepmp || s.cfg.ext.smmpm || s.cfg.ext.zicfilp

/-- Landing pads are enabled in a mode: by `MLPE` in M-mode, by `menvcfg.LPE` in S-mode, and in U-mode where S-mode is not
implemented (12_state_config_pmp_mmio.md R184, R202); by `senvcfg.LPE` in U-mode below S-mode (PRESUMED, log entry 44). -/
def State.landingPads (s : State) : Priv → Bool
  | .m => s.seccfg.mlpe
  | .s => s.envcfg.lpe
  | .u => if s.hasS then s.senvcfg.lpe else s.envcfg.lpe

/-- Ssdbltrp is in effect: `menvcfg.DTE` = 0 makes it absent (12_state_config_pmp_mmio.md R187). -/
def State.sdtActive (s : State) : Bool := s.hasS && s.envcfg.dte

end Sys2Proof.Machine
end

