-- ==== Sys2Proof/Machine/Map.lean ====
section
/-! DEFINITION. What stands at a physical address: a window of the memory-mapped registers
(12_state_config_pmp_mmio.md R230 to R237), a region with its attributes (20_memory.md R258 to R269), or nothing. -/

namespace Sys2Proof.Machine

/-- A memory-mapped register. -/
inductive DeviceReg where
  | mtime
  | mtimecmp
  | msip
deriving DecidableEq, Repr

/-- The register whose window holds a byte address, and the offset in it. -/
def deviceAt (c : Cfg) (a : Nat) : Option (DeviceReg × Nat) :=
  if c.mtimeAddr ≤ a ∧ a < c.mtimeAddr + 8 then some (.mtime, a - c.mtimeAddr)
  else if c.mtimecmpAddr ≤ a ∧ a < c.mtimecmpAddr + 8 then some (.mtimecmp, a - c.mtimecmpAddr)
  else if c.msipAddr ≤ a ∧ a < c.msipAddr + 4 then some (.msip, a - c.msipAddr)
  else none

/-- The region of an address; no region is vacant (20_memory.md R260). -/
def regionAt (c : Cfg) (a : Nat) : Option PmaRegion :=
  c.pma.find? (fun r => decide (r.base ≤ a) && decide (a < r.base + r.size))

/-- Something stands at a physical address. -/
def mapped (c : Cfg) (a : Nat) : Bool := (deviceAt c a).isSome || (regionAt c a).isSome

/-- A physical address that is ordered as device I/O: no main memory stands there (20_memory.md R260, R267). -/
def deviceOrdered (c : Cfg) (a : Nat) : Bool :=
  match regionAt c a with
  | some r => !r.mainMemory
  | none => true

/-- A value that can be a `pc` or an effective address: something stands there, in the full width or as the sign-extended
address of a narrow mode (11_state_trap_csrs.md R145, 10_state.md R22; log entry 32). -/
def validAddress (c : Cfg) (v : Word) : Bool :=
  mapped c v.toNat || (v == widen c.mxlen .x32 v && mapped c (narrow .x32 v).toNat)

end Sys2Proof.Machine
end

