-- ==== Sys2Proof/Machine/Flags.lean ====
section
/-! DEFINITION. The status register: which fields of `mstatus`/`mstatush` exist, what a read returns and what a write
stores (10_state.md R46 to R76). The ISA has no condition flags (COVERAGE B3). -/

namespace Sys2Proof.Machine

/-! ### Fields that depend on the configuration -/

/-- `MBE` as it reads (10_state.md R58). -/
def State.mbe (s : State) : Bool :=
  match s.cfg.mbeKind with
  | .ro1 => true
  | .rw => s.csr.mstatus.mbe
  | _ => false

/-- `SBE` as it reads (10_state.md R58). -/
def State.sbe (s : State) : Bool :=
  s.hasS && match s.cfg.sbeKind with
    | .ro1 => true
    | .rw => s.csr.mstatus.sbe
    | .copyM => s.mbe
    | _ => false

/-- `UBE` as it reads (10_state.md R58). -/
def State.ube (s : State) : Bool :=
  s.hasU && match s.cfg.ubeKind with
    | .ro0 => false
    | .ro1 => true
    | .rw => s.csr.mstatus.ube
    | .copyM => s.mbe
    | .copyS => s.sbe

/-- `FS` is not read-only zero (10_state.md R63). -/
def State.fsExists (s : State) : Bool := s.cfg.fsKind != .ro0 && (s.extF || s.hasS)

/-- `VS` is not read-only zero (10_state.md R64). -/
def State.vsExists (s : State) : Bool := s.cfg.vsKind != .ro0 && (s.extV || s.hasS)

/-- `MPP` as it reads: an implemented mode (10_state.md R51; log entry 40). -/
def State.mppSeen (s : State) : Priv :=
  if s.modeExists s.csr.mstatus.mpp then s.csr.mstatus.mpp else .m

/-- The fields of `mstatus` as they read: those that do not exist are read-only 0 (10_state.md R46 to R61). `SUM` is
read-only 0 because `satp.MODE` is (R57, 92_eei_decisions.md D4). -/
def State.status (s : State) : Mstatus :=
  let m := s.csr.mstatus
  { sie := s.hasS && m.sie
    mie := m.mie
    spie := s.hasS && m.spie
    ube := s.ube
    mpie := m.mpie
    spp := s.hasS && m.spp
    vs := if s.vsExists then m.vs else 0
    mpp := s.mppSeen
    fs := if s.fsExists then m.fs else 0
    mprv := s.hasU && m.mprv
    sum := false
    mxr := s.hasS && m.mxr
    tvm := s.hasS && m.tvm
    tw := s.hasU && m.tw
    tsr := s.hasS && m.tsr
    spelp := s.hasS && s.cfg.ext.zicfilp && m.spelp
    sdt := s.sdtActive && m.sdt
    uxl := s.uxlen
    sxl := s.sxlen
    sbe := s.sbe
    mbe := s.mbe
    mpelp := s.cfg.ext.zicfilp && m.mpelp
    mdt := s.cfg.ext.smdbltrp && m.mdt }

/-! ### Units whose state has a status field -/

/-- A unit is there and its status is not Off, so that an instruction may use its state (10_state.md R65, R67). -/
def State.unitOn (s : State) : StateUnit → Bool
  | .float => s.extF && s.status.fs != 0
  | .vector => s.extV && s.status.vs != 0
  | .other i => (s.units.statuses[i]?).getD 0 != 0

/-- The units whose state a word uses are on. -/
def State.unitsOn (s : State) (l : List StateUnit) : Bool := l.all s.unitOn

/-- The features that decide which encodings are reserved (30_encoding.md R345). -/
def State.features (s : State) : Features where
  hasS := s.hasS
  smrnmi := s.cfg.ext.smrnmi
  svinval := s.cfg.ext.svinval
  extC := s.extC
  customWords := s.cfg.customWords.filter (fun p => s.unitsOn p.units)
  rvE := s.rvE

/-! ### Reads -/

/-- The largest of some status values. -/
def maxStatus : List (BitVec 2) → BitVec 2
  | [] => 0
  | v :: vs => if v.ult (maxStatus vs) then maxStatus vs else v

/-- `XS`, the maximum of the status of all additional extensions (10_state.md R65). Clearing the `misa` letter of one does not
take its status out: R37 speaks of standard extensions (DESIGN CHOICE, log entries 10, 40). -/
def State.xs (s : State) : BitVec 2 :=
  if s.cfg.xsKind = .ro0 then 0 else maxStatus s.units.statuses

/-- `SD` (10_state.md R66). -/
def State.sd (s : State) : Bool := s.status.fs == 3 || s.xs == 3 || s.status.vs == 3

/-- The fields at the positions of 10_state.md R46 in 64 bits, `SD` apart; with MXLEN=32 the upper half is `mstatush`
and has no `SXL` and `UXL` (R47). -/
def State.statusBits (s : State) : Word :=
  let m := s.status
  flag m.sie 1 ||| flag m.mie 3 ||| flag m.spie 5 ||| flag m.ube 6 ||| flag m.mpie 7 ||| flag m.spp 8 |||
  pair m.vs 9 ||| pair m.mpp.code 11 ||| pair m.fs 13 ||| pair s.xs 15 ||| flag m.mprv 17 ||| flag m.sum 18 |||
  flag m.mxr 19 ||| flag m.tvm 20 ||| flag m.tw 21 ||| flag m.tsr 22 ||| flag m.spelp 23 ||| flag m.sdt 24 |||
  (if s.cfg.mxlen = .x64 ∧ s.hasU then pair m.uxl.code 32 else 0) |||
  (if s.cfg.mxlen = .x64 ∧ s.hasS then pair m.sxl.code 34 else 0) |||
  flag m.sbe 36 ||| flag m.mbe 37 ||| flag m.mpelp 41 ||| flag m.mdt 42

/-- `SD` at the top of a register of the given width (10_state.md R46, R66). -/
def sdBit (x : Xlen) (sd : Bool) : Word :=
  match x with
  | .x32 => flag sd 31
  | .x64 => flag sd 63

/-- The value read from `mstatus` (10_state.md R76). -/
def State.mstatusRead (s : State) : Word :=
  narrow s.cfg.mxlen s.statusBits ||| sdBit s.cfg.mxlen s.sd

/-- The value read from `mstatush` (10_state.md R47). -/
def State.mstatushRead (s : State) : Word := highHalf s.statusBits

/-- The bits of `mstatus` that `sstatus` shows: SIE SPIE UBE SPP VS FS XS SUM MXR SPELP SDT UXL (PRESUMED, log entry 14). -/
def sstatusMask : Word := 0x3018DE762

/-- The value read from `sstatus` (10_state.md R76; log entry 14). M-mode too reads it in S-mode's layout, of 32 bits while
SXLEN is 32 (DESIGN CHOICE: 40_csr_access.md R384 gives no width; log entry 53). -/
def State.sstatusRead (s : State) : Word :=
  narrow s.sxlen (s.statusBits &&& sstatusMask) ||| sdBit s.sxlen s.sd

/-! ### Writes -/

/-- The mode of a legal `MPP` encoding, else the old mode (10_state.md R51, 92_eei_decisions.md D9). -/
def State.mppOf (s : State) (old : Priv) (w : BitVec 2) : Priv :=
  if w = 3 then .m
  else if w = 1 ∧ s.hasS then .s
  else if w = 0 ∧ s.hasU then .u
  else old

/-- What another implementation's legaliser of a two-bit field makes of a written value. -/
def freeLegal (f : WarlField) (old w : BitVec 2) : BitVec 2 :=
  (Config.warl f (old.setWidth 64) (w.setWidth 64)).setWidth 2

/-- `legalize_MPP`: an implemented mode is stored; what any other value leaves is `cfg`'s choice of an implemented mode
(00_scope.md R6, 10_state.md R51; log entry 32). -/
def State.legalizeMpp (s : State) (old : Priv) (w : BitVec 2) : Priv :=
  let kept := s.mppOf old w
  if kept.code = w then kept
  else if s.cfg.kind .mpp = .impl then s.mppOf old (freeLegal .mpp old.code w)
  else old

/-- The XLEN of an encoding, another for the reserved ones 0 and 3 (10_state.md R52). -/
def xlOf (other : Xlen) (w : BitVec 2) : Xlen := if w = 1 then .x32 else if w = 2 then .x64 else other

/-- The legaliser of `SXL` and `UXL`: the encoding of an XLEN that the field must hold is stored, and what any other written
value leaves is `cfg`'s choice, in REF's legaliser the asked width, or the old one where a reserved encoding (0 or 3) is
written: no rule says what that stores (00_scope.md R6, R10; DESIGN CHOICE, log entries 32, 45). -/
def legalizeXl (c : Cfg) (f : WarlField) (k : XlKind) (must : Bool) (old : Xlen) (w : BitVec 2) : Xlen :=
  match k with
  | .ro x => x
  | .followS => old
  | .rw =>
    match c.kind f with
    | .ref => xlOf old w
    | .readOnly => old
    | .impl => if must && (w == 1 || w == 2) then xlOf old w else xlOf old (freeLegal f old.code w)

/-- The WARL rule of `FS` and `VS` (10_state.md R63, R64, R69). -/
def legalizeContext (k : ContextKind) (present : Bool) (w : BitVec 2) : BitVec 2 :=
  if !present then 0
  else match k with
    | .ro0 => 0
    | .offDirty => if w = 0 then 0 else 3
    | _ => w

/-- What a write of the masked bits of a value, in the 64-bit layout, stores (10_state.md R76): every field that the write
reaches by its own legaliser, independently but for `MDT` with `MIE` by R72; so `SIE` takes its written bit whatever `SDT`
takes. While `menvcfg.DTE` is 0 the hidden `SDT` is cleared by any write and else kept, and it shows again when `DTE` returns
to 1 (DESIGN CHOICE, log entry 11). Where `UXL` would exceed `SXL` an implementation's legaliser may keep `SXL`; then `UXL` is
lowered to `SXL` (R52 leaves these values open; DESIGN CHOICE, log entry 45). -/
def State.statusWrite (s : State) (mask w : Word) : Mstatus :=
  let m := s.csr.mstatus
  let o := s.status
  let one (i : Nat) (old : Bool) : Bool := if mask.getLsbD i then w.getLsbD i else old
  let two (i : Nat) (old : BitVec 2) : BitVec 2 := if mask.getLsbD i then pairAt w i else old
  let mdt := s.cfg.ext.smdbltrp && one 42 o.mdt
  let bit (f : WarlField) (i : Nat) (old : Bool) : Bool :=
    if mask.getLsbD i then warlBit s.cfg f old (w.getLsbD i) else old
  let wider := (if mask.getLsbD 32 then pairAt w 32 else m.uxl.code) == 2
  let sxl :=
    if s.hasS && mask.getLsbD 34 then legalizeXl s.cfg .sxl s.cfg.sxlKind (!(pairAt w 34 == 1 && wider)) m.sxl (pairAt w 34)
    else m.sxl
  let uxl := if s.hasU && mask.getLsbD 32 then legalizeXl s.cfg .uxl s.cfg.uxlKind true m.uxl (pairAt w 32) else m.uxl
  { sie := s.hasS && one 1 o.sie
    mie := if mask.getLsbD 3 || mask.getLsbD 42 then one 3 o.mie && !mdt else o.mie
    spie := s.hasS && one 5 o.spie
    ube := s.hasU && one 6 o.ube
    mpie := one 7 o.mpie
    spp := s.hasS && one 8 o.spp
    vs := legalizeContext s.cfg.vsKind s.vsExists (two 9 o.vs)
    mpp := if mask.getLsbD 11 then s.legalizeMpp o.mpp (pairAt w 11) else m.mpp
    fs := legalizeContext s.cfg.fsKind s.fsExists (two 13 o.fs)
    mprv := s.hasU && one 17 o.mprv
    sum := false
    mxr := s.hasS && one 19 o.mxr
    tvm := s.hasS && bit .tvm 20 o.tvm
    tw := s.hasU && bit .tw 21 o.tw
    tsr := s.hasS && bit .tsr 22 o.tsr
    spelp := s.hasS && s.cfg.ext.zicfilp && one 23 o.spelp
    sdt := s.sdtActive && one 24 o.sdt
    uxl := if s.hasS && xlValue s.cfg.sxlKind sxl .x64 == .x32 then .x32 else uxl
    sxl := sxl
    sbe := s.hasS && one 36 o.sbe
    mbe := one 37 o.mbe
    mpelp := s.cfg.ext.zicfilp && one 41 o.mpelp
    mdt := mdt }

end Sys2Proof.Machine
end

