-- ==== Sys2Proof/Machine/Memory.lean ====
section
/-! DEFINITION. The byte memory: a list of cells in one canonical form (addresses strictly rising, no zero byte). An
address that is not listed reads 0 (DESIGN CHOICE, log entry 4; 70_reset_and_hazards.md R556 states nothing). -/

namespace Sys2Proof.Machine

/-- The whole physical address space, 20_memory.md R250, R254. -/
abbrev Memory := List Host.Cell

/-- What an address that is not listed reads as. -/
def Memory.unlisted : Byte := 0

/-- One byte. -/
def Memory.read : Memory → Nat → Byte
  | [], _ => Memory.unlisted
  | c :: m, a => if c.1 = a then c.2 else Memory.read m a

/-- The memory without an address. -/
def Memory.remove : Memory → Nat → Memory
  | [], _ => []
  | c :: m, a => if c.1 = a then Memory.remove m a else c :: Memory.remove m a

/-- A cell put before the first larger address. -/
def Memory.insert : Memory → Nat → Byte → Memory
  | [], a, b => [(a, b)]
  | c :: m, a, b => if a < c.1 then (a, b) :: c :: m else c :: Memory.insert m a b

/-- Writes one byte and keeps the canonical form. -/
def Memory.write (m : Memory) (a : Nat) (b : Byte) : Memory :=
  if b = Memory.unlisted then Memory.remove m a else Memory.insert (Memory.remove m a) a b

/-- Every address of a memory is above a bound, addresses rise strictly, no listed byte reads as unlisted. -/
def Memory.wfAbove : Option Nat → Memory → Bool
  | _, [] => true
  | lo, c :: m =>
    (match lo with | none => true | some l => decide (l < c.1)) && decide (c.2 ≠ Memory.unlisted) &&
      Memory.wfAbove (some c.1) m

/-- The canonical form. -/
def Memory.wf (m : Memory) : Bool := Memory.wfAbove none m

/-- Writes bytes at rising addresses from a. -/
def Memory.writeBytes (m : Memory) (a : Nat) : List Byte → Memory
  | [] => m
  | b :: bs => Memory.writeBytes (Memory.write m a b) (a + 1) bs

end Sys2Proof.Machine
end

