-- ==== Sys2Proof/Machine/Ops.lean ====
section
/-! DEFINITION. The shared operations: integer registers and pc, counters, pending interrupts, taking a trap and
returning from one. -/

namespace Sys2Proof.Machine

/-! ### Integer registers and pc -/

/-- `x[r]`, the low XLEN bits of the register; `x[0]` reads 0 (10_state.md R21, R53). -/
def State.readX (s : State) (r : BitVec 5) : Word :=
  if r = 0 then 0 else narrow s.xlen (s.x[r.toNat]'(r.isLt))

/-- `x[r] <- v`, sign-extended from the given XLEN to MXLEN; a write to `x[0]` is dropped (10_state.md R21, R53). -/
def State.writeX (s : State) (xl : Xlen) (r : BitVec 5) (v : Word) : State :=
  if r = 0 then s else s.setXs (s.x.set r.toNat (widen s.cfg.mxlen xl v) r.isLt)

/-- `pc <- t` in the current XLEN (10_state.md R22). -/
def State.jump (s : State) (t : Word) : State := s.setPc (widen s.cfg.mxlen s.xlen t)

/-- The address of the instruction, the low XLEN bits of `pc` (10_state.md R22). -/
def State.pcAddr (s : State) : Word := narrow s.xlen s.pc

/-- A target address is IALIGN-aligned (10_state.md R22). -/
def State.aligned (s : State) (t : Word) : Bool :=
  !t.getLsbD 0 && (s.extC || !t.getLsbD 1)

/-! ### Counters -/

/-- A counter of the hart, as far as an instruction that writes it is concerned (11_state_trap_csrs.md R128). -/
inductive CounterSel where
  | cycle
  | instret
  /-- `mhpmcounter(j+3)`. -/
  | hpm (j : Nat)
deriving DecidableEq, Repr

/-- Bit i of `mcountinhibit`; the register absent behaves as zero (11_state_trap_csrs.md R138). -/
def State.inhibited (s : State) (i : Nat) : Bool :=
  s.cfg.mcountinhibitImpl && (s.csr.mcountinhibit &&& s.cfg.mcountinhibitWmask).getLsbD i

/-- How far `mcycle` advances for an executed instruction (11_state_trap_csrs.md R125, 92_eei_decisions.md D20). -/
def State.cycleStep (s : State) : Word :=
  match s.cfg.mcycleStep with
  | .one => 1
  | .free => Config.cycles s.ctr

/-- `mcycle` after an executed instruction, unless it is inhibited or the instruction writes it. -/
def State.nextMcycle (s : State) (skip : Option CounterSel) : Word :=
  if s.inhibited 0 || skip == some .cycle then s.cnt.mcycle else s.cnt.mcycle + s.cycleStep

/-- `minstret` after an instruction that retires, unless it is inhibited or the instruction writes it
(11_state_trap_csrs.md R126, R128). -/
def State.nextMinstret (s : State) (skip : Option CounterSel) : Word :=
  if s.inhibited 2 || skip == some .instret then s.cnt.minstret else s.cnt.minstret + 1

/-- One event counter advances by the events its selector counts; event 0 counts none, `OF` being no part of the event;
with Sscofpmf an overflow sets `OF` (bit 63) and, where `OF` was clear, `mip.LCOFIP` (11_state_trap_csrs.md R129, R130). An
overflow is a sum past 2^64, also where `mhpmcounterWmask` implements fewer bits (DESIGN CHOICE: 91_not_in_source.md N11;
log entries 16, 39). -/
def State.countEvent (s : State) (skip : Option CounterSel) (j : Nat) : State :=
  let event := (s.cnt.hpmevent[j]?).getD 0
  let selected := event &&& ~~~flag s.cfg.ext.sscofpmf 63
  let old := (s.cnt.hpmcounter[j]?).getD 0
  if !s.cfg.hpmImpl.getLsbD (j + 3) || s.inhibited (j + 3) || skip == some (.hpm j) || selected == 0 then s
  else
    let sum := old.toNat + (Config.hpmEvents selected (j + 3) s.ctr).toNat
    let counted := s.setCnt { s.cnt with
      hpmcounter := s.cnt.hpmcounter.setIfInBounds j (BitVec.ofNat 64 sum &&& s.cfg.mhpmcounterWmask) }
    if s.cfg.ext.sscofpmf && decide (2 ^ 64 ≤ sum) then
      (counted.setCnt { counted.cnt with hpmevent := counted.cnt.hpmevent.setIfInBounds j (event ||| flag true 63) }).setCsr
        { s.csr with lcofip := s.csr.lcofip || !event.getLsbD 63 }
    else counted

/-- The event counters below index n advance. -/
def State.countEvents (s : State) (skip : Option CounterSel) : Nat → State
  | 0 => s
  | n + 1 => (s.countEvents skip n).countEvent skip n

/-- Every implemented event counter advances. -/
def State.countHpm (s : State) (skip : Option CounterSel) : State :=
  if s.cfg.hpmImpl = 0 then s else s.countEvents skip 29

/-- The counters after an instruction that retires (60_exceptions.md R510 step 7). -/
def State.countRetired (s : State) (skip : Option CounterSel) : State :=
  (s.setCnt { s.cnt with mcycle := s.nextMcycle skip, minstret := s.nextMinstret skip }).countHpm skip

/-- The counters after an instruction that raises: it does not retire (11_state_trap_csrs.md R127). -/
def State.countTrapped (s : State) : State :=
  (s.setCnt { s.cnt with mcycle := s.nextMcycle none }).countHpm none

/-- The counters of a step that executes no instruction: `mcycle` may advance, in REF it does not
(70_reset_and_hazards.md R570, 43_wfi.md R421, 92_eei_decisions.md D20). The event counters follow it: under `MCYCLE_STEP` free
they too count a free number of events in an idle, an interrupt or an NMI step, under one they count none there; R421 and
60_exceptions.md R530 do not say whether such a step has events (DESIGN CHOICE, log entry 39). -/
def State.countIdle (s : State) : State :=
  match s.cfg.mcycleStep with
  | .one => s
  | .free => s.countTrapped

/-- An instruction of n bytes that does not trap and does not jump retires (10_state.md R22, 60_exceptions.md R510). -/
def State.retire (s : State) (n : Nat) : State :=
  (s.countRetired none).jump (s.pc + BitVec.ofNat 64 n)

/-! ### Pending interrupts -/

/-- The `time` CSR's value: `mtime`, or what synchronisation last showed (12_state_config_pmp_mmio.md R236). -/
def State.timeNow (s : State) : Word := if s.cfg.zeroLag then s.plat.mtime else s.plat.timeSeen

/-- `MTIP` (12_state_config_pmp_mmio.md R232). -/
def State.mtip (s : State) : Bool :=
  if s.cfg.zeroLag then decide (s.plat.mtimecmp.toNat ≤ s.plat.mtime.toNat) else s.plat.mtip

/-- `mip.MSIP` (12_state_config_pmp_mmio.md R235, 11_state_trap_csrs.md R117). -/
def State.msip (s : State) : Bool :=
  s.cfg.msipImpl && (if s.cfg.zeroLag then s.plat.msip else s.plat.msipSeen)

/-- `mip.STIP` (11_state_trap_csrs.md R120, 12_state_config_pmp_mmio.md R179); what it holds when `STCE` returns to 0 is DESIGN
CHOICE (log entry 50). -/
def State.stip (s : State) : Bool :=
  s.hasS && (if s.envcfg.stce then decide (s.sup.stimecmp.toNat ≤ s.timeNow.toNat) else s.csr.stip)

/-- The platform bits of `mip` and `mie` (11_state_trap_csrs.md R116). -/
def State.platMask (s : State) : Word := narrow s.cfg.mxlen (causeMask s.cfg.platIrqs) &&& 0xFFFFFFFFFFFF0000

/-- The platform bits of `mip` that software can write (11_state_trap_csrs.md R118). -/
def State.platWritable (s : State) : Word := s.cfg.platSwMask &&& s.platMask

/-- The platform bits of `mip`: a writable one holds what a request set or software wrote last, so that writing 0 clears it, a
read-only one is the platform's level (11_state_trap_csrs.md R118; log entry 36). -/
def State.platPending (s : State) : Word :=
  (s.csr.platSw &&& s.platWritable) ||| (s.plat.irqs &&& s.platMask &&& ~~~s.cfg.platSwMask)

/-- `mip` with bit 9 as given. -/
def State.mipWith (s : State) (seip : Bool) : Word :=
  flag s.plat.mei 11 ||| flag (s.hasS && seip) 9 ||| flag s.mtip 7 ||| flag s.stip 5 ||| flag s.msip 3 |||
    flag (s.hasS && s.csr.ssip) 1 ||| flag (s.cfg.ext.sscofpmf && s.csr.lcofip) 13 |||
    s.platPending

/-- `mip_read()` (11_state_trap_csrs.md R124). -/
def State.mipRead (s : State) : Word := s.mipWith (s.csr.seipSw || s.plat.sei)

/-- `mip_rmw()` (11_state_trap_csrs.md R119, R124). -/
def State.mipRmw (s : State) : Word := s.mipWith s.csr.seipSw

/-- The writable bits of `mie` (11_state_trap_csrs.md R121). -/
def State.mieMask (s : State) : Word :=
  flag true 11 ||| flag true 7 ||| flag s.cfg.msipImpl 3 ||| flag s.hasS 9 ||| flag s.hasS 5 ||| flag s.hasS 1 |||
    flag s.cfg.ext.sscofpmf 13 ||| s.platMask

/-- `mie` as it reads (11_state_trap_csrs.md R121). -/
def State.mieRead (s : State) : Word := s.csr.mie &&& s.mieMask

/-- `mideleg` as it reads: reserved causes are 0, no machine-level cause is read-only one (11_state_trap_csrs.md R113). -/
def State.midelegRead (s : State) : Word :=
  ((s.csr.mideleg &&& s.cfg.midelegWmask) ||| (s.cfg.midelegRo1 &&& ~~~0x888#64)) &&& (0x2AAA ||| s.platMask)

/-- `mideleg` where the register exists, else 0 (60_exceptions.md R462). -/
def State.midelegEff (s : State) : Word := if s.hasS then s.midelegRead else 0

/-- Codes of `medeleg` that can never be set: 11, 16 and the reserved codes 10, 14, 17, 20 to 23, 32 to 47
(11_state_trap_csrs.md R112). -/
def medelegNever : Word := 0x0000FFFF00F34C00

/-- The delegatable exception codes (11_state_trap_csrs.md R112). -/
def State.medelegMask (s : State) : Word := s.cfg.medelegWmask &&& ~~~medelegNever

/-- `medeleg` as it reads. -/
def State.medelegRead (s : State) : Word := s.csr.medeleg &&& s.medelegMask

/-- The interrupts destined for M-mode (60_exceptions.md R462). -/
def State.mSet (s : State) : Word := s.mipRead &&& s.mieRead &&& ~~~s.midelegEff

/-- The interrupts destined for S-mode (60_exceptions.md R463). -/
def State.sSet (s : State) : Word := s.mipRead &&& s.mieRead &&& s.midelegEff

/-- M-mode interrupts are enabled now (60_exceptions.md R461, R462). -/
def State.mEnabled (s : State) : Bool := s.priv != .m || s.status.mie

/-- S-mode interrupts are enabled now (60_exceptions.md R461, R463). -/
def State.sEnabled (s : State) : Bool :=
  match s.priv with
  | .u => true
  | .s => s.status.sie
  | .m => false

/-- The causes in decreasing priority: the platform's, then MEI MSI MTI SEI SSI STI LCOFI (60_exceptions.md R464). -/
def State.irqOrder (s : State) : List Nat := s.cfg.platIrqs ++ [11, 3, 7, 9, 1, 5, 13]

/-- `select(set)` (60_exceptions.md R464). -/
def State.selectIrq (s : State) (set : Word) : Option Nat := s.irqOrder.find? (fun i => set.getLsbD i)

/-- `pending_interrupt()`: whether it goes to S-mode, and the cause (60_exceptions.md R466). -/
def State.pendingInterrupt (s : State) : Option (Bool × Nat) :=
  if s.mEnabled && s.mSet != 0 then (s.selectIrq s.mSet).map (fun i => (false, i))
  else if s.hasS && s.sEnabled && s.sSet != 0 then (s.selectIrq s.sSet).map (fun i => (true, i))
  else none

/-- A pending interrupt that is individually enabled, at any privilege level (43_wfi.md R421). -/
def State.wake (s : State) : Bool := s.mipRead &&& s.mieRead != 0

/-! ### Taking a trap -/

/-- A cause register value: the Interrupt bit at the top of an XLEN-bit register, and the code (11_state_trap_csrs.md
R147). -/
def causeWord (x : Xlen) (isInt : Bool) (code : Nat) : Word :=
  sdBit x isInt ||| narrow x (BitVec.ofNat 64 code)

/-- The trap target from a vector register (11_state_trap_csrs.md R101, R103). -/
def trapTarget (x : Xlen) (tvec : Word) (isInt : Bool) (code : Nat) : Word :=
  let base := tvec &&& ~~~3#64
  if pairAt tvec 0 = 1 ∧ isInt then narrow x (base + BitVec.ofNat 64 (4 * code)) else base

/-- The trap value that is written: informative, zero, or a free choice, by `mtvalPolicy`; zero for interrupts
(11_state_trap_csrs.md R150, R157). An address of a mode with XLEN below MXLEN is written zero-extended, also where `mepc`
takes the sign-extended `pc` (DESIGN CHOICE, log entry 21: R151 states no extension). -/
def State.trapValue (s : State) (isInt : Bool) (code : Nat) (tval : Word) : Word :=
  if isInt then 0
  else if s.cfg.mtvalInformative.getLsbD code then tval
  else if s.cfg.mtvalEither.getLsbD code && Config.mtvalChoice s.ctr then tval
  else 0

/-- Clears the low bits of an exception pc that are never stored (11_state_trap_csrs.md R143). -/
def clearEpcLow (c : Cfg) (v : Word) : Word := if c.extC then v &&& ~~~1#64 else v &&& ~~~3#64

/-- What an implementation that cannot hold an invalid address makes of it (11_state_trap_csrs.md R145). -/
def epcOther (c : Cfg) (v : Word) : Word := clearEpcLow c (narrow c.mxlen (Config.warl .mepc 0 v))

/-- An address that an implementation can hold: the reset value 0, every valid address, what it calls legal, and an invalid
one for which it has no other invalid one that it calls legal (11_state_trap_csrs.md R145). -/
def epcHeld (c : Cfg) (v : Word) : Bool :=
  v == 0 || validAddress c v || Config.warlLegal .mepc v ||
    !(!validAddress c (epcOther c v) && Config.warlLegal .mepc (epcOther c v))

/-- `legalize_mepc`, also used for `sepc`: every valid address is held as it is, an invalid one may become some other
invalid one (11_state_trap_csrs.md R143, R145; log entry 32). -/
def State.legalizeEpc (s : State) (w : Word) : Word :=
  let v := clearEpcLow s.cfg (narrow s.cfg.mxlen w)
  match s.cfg.kind .mepc with
  | .impl => if epcHeld s.cfg v then v else epcOther s.cfg v
  | _ => v

/-- The masking of bit 1 on a read of `mepc` or `sepc` while IALIGN is 32 (11_state_trap_csrs.md R144). -/
def State.epcMasked (s : State) (v : Word) : Word :=
  if s.extC then v &&& ~~~1#64 else v &&& ~~~3#64

/-- Some exception can write `mtval` nonzero; otherwise it is read-only zero (11_state_trap_csrs.md R150). -/
def State.mtvalExists (s : State) : Bool := s.cfg.mtvalInformative ||| s.cfg.mtvalEither != 0

/-- A trap into M-mode would be unexpected: `MDT` is already 1, or it occurs in M-mode with `mnstatus.NMIE` = 0
(60_exceptions.md R492). -/
def State.unexpected (s : State) : Bool :=
  s.cfg.ext.smdbltrp && (s.status.mdt || (s.cfg.ext.smrnmi && s.priv == .m && !s.rnmi.nmie))

/-- The RNMI handler can take an unexpected trap (60_exceptions.md R492). -/
def State.rnmiReady (s : State) : Bool := s.cfg.ext.smrnmi && s.rnmi.nmie

/-- An unexpected trap that nothing can take: the critical-error state follows (60_exceptions.md R493). -/
def State.fatal (s : State) : Bool := s.unexpected && !s.rnmiReady

/-- `ELP` after a trap into a mode or a return to it, and after an indirect jump or LPAD in the mode: it stays NO_LP_EXPECTED
where landing pads are not enabled in the mode (12_state_config_pmp_mmio.md R184, R202); where they are, the rule is not in
the source and the bit is free (91_not_in_source.md N9, N22; log entry 12). -/
def State.elpIn (s : State) (y : Priv) : Bool :=
  if s.cfg.ext.zicfilp then s.landingPads y && Config.landingPad 0 s.ctr else s.elp

/-- `ELP` after an indirect jump (JALR) or LPAD. That these two, and no other instruction that retires in its mode, may update
it where landing pads are enabled is the model's choice: 12_state_config_pmp_mmio.md R184 and R202 say only when the hart does
not (DESIGN CHOICE, log entry 12). -/
def State.elpStep (s : State) : State := s.setElp (s.elpIn s.priv)

/-- `MPELP` after a trap or a return that may write it: free with Zicfilp (91_not_in_source.md N9; log entry 12). -/
def State.nextMpelp (s : State) : Bool :=
  if s.cfg.ext.zicfilp then Config.landingPad 1 s.ctr else s.csr.mstatus.mpelp

/-- `SPELP`, likewise. -/
def State.nextSpelp (s : State) : Bool :=
  if s.cfg.ext.zicfilp then Config.landingPad 2 s.ctr else s.csr.mstatus.spelp

/-- Entry of the RNMI handler, for an unexpected trap or an RNMI (60_exceptions.md R492; log entry 13). `MPELP` and `SPELP` keep
their values: 10_state.md R74 leaves their update to another chapter (91_not_in_source.md N9, N27; DESIGN CHOICE, log entry
12). -/
def State.enterRnmi (s : State) (from_ : Priv) (cause : Word) : State :=
  ((((s.setRnmi { mnepc := s.pc, mncause := cause, mnpp := from_, nmie := false }).setPriv .m).setPc
    (narrow s.cfg.mxlen s.cfg.rnmiVector)).setWait .running).setElp (s.elpIn .m)

/-- A trap into M-mode where it is delivered (60_exceptions.md R480). -/
def State.enterM (s : State) (isInt : Bool) (code : Nat) (tval : Word) : State :=
  let m := s.csr.mstatus
  let c := { s.csr with
    mepc := s.legalizeEpc s.pc
    mcause := causeWord s.cfg.mxlen isInt code
    mtval := narrow s.cfg.mxlen (s.trapValue isInt code tval)
    mstatus := { m with
      mpie := m.mie
      mie := false
      mpp := s.priv
      mpelp := s.nextMpelp
      mdt := if s.cfg.ext.smdbltrp then true else m.mdt } }
  ((((s.setCsr c).setPriv .m).setPc (trapTarget s.cfg.mxlen s.csr.mtvec isInt code)).setWait .running).setElp (s.elpIn .m)

/-- `trap_M` (60_exceptions.md R480, R492, R493). -/
def State.trapM (s : State) (isInt : Bool) (code : Nat) (tval : Word) : State :=
  if s.unexpected then
    if s.rnmiReady then s.enterRnmi .m (causeWord s.cfg.mxlen isInt code)
    else s.setCriticalError true
  else s.enterM isInt code tval

/-- A trap into S-mode where it is delivered (60_exceptions.md R481); with Ssdbltrp it sets `SDT` (PRESUMED, log
entry 11). -/
def State.enterS (s : State) (isInt : Bool) (code : Nat) (tval : Word) : State :=
  let m := s.csr.mstatus
  let u := { s.sup with
    sepc := s.legalizeEpc s.pc
    scause := causeWord s.sxlen isInt code
    stval := narrow s.cfg.mxlen (s.trapValue isInt code tval) }
  let m' := { m with
    spie := m.sie
    sie := false
    spp := s.priv == .s
    spelp := s.nextSpelp
    sdt := if s.sdtActive then true else m.sdt }
  (((((s.setSup u).setMstatus m').setPriv .s).setPc
    (widen s.cfg.mxlen s.sxlen (trapTarget s.sxlen s.sup.stvec isInt code))).setWait .running).setElp
    (s.elpIn .s)

/-- `trap_S`; with Ssdbltrp a trap that meets `SDT` = 1 is reported to M-mode as a double trap, code 16
(60_exceptions.md R481, R496; PRESUMED, log entry 11). -/
def State.trapS (s : State) (isInt : Bool) (code : Nat) (tval : Word) : State :=
  if s.status.sdt then s.trapM false 16 0 else s.enterS isInt code tval

/-- Delivers a trap to the mode that handles it. -/
def State.deliver (s : State) (toS isInt : Bool) (code : Nat) (tval : Word) : State :=
  if toS then s.trapS isInt code tval else s.trapM isInt code tval

/-- `target_mode`: a synchronous exception goes to S-mode (60_exceptions.md R481). -/
def State.delegated (s : State) (code : Nat) : Bool :=
  s.hasS && s.priv != .m && s.medelegRead.getLsbD code

/-- `raise E(tval)`: the instruction is abandoned and the trap is taken in the same step; one that ends in the
critical-error state updates nothing else (60_exceptions.md R450, R493). -/
def State.raise (s : State) (code : Nat) (tval : Word) : State :=
  if s.fatal && (!s.delegated code || s.status.sdt) then s.setCriticalError true
  else s.countTrapped.deliver (s.delegated code) false code tval

/-- The code of an exception that `customExec` gives: one designated for custom use; any other counts as 24, the first of them
(60_exceptions.md R450). -/
def customCode (n : Nat) : Nat := if (24 ≤ n ∧ n ≤ 31) ∨ (48 ≤ n ∧ n ≤ 63) then n else 24

/-- Raises the illegal-instruction exception for an instruction word (30_encoding.md R346, 11_state_trap_csrs.md R155). -/
def State.illegal (s : State) (w : BitVec 32) : State := s.raise 2 (w.setWidth 64)

/-- An interrupt is taken; one that ends in the critical-error state updates nothing else (60_exceptions.md R466, R493). -/
def State.takeInterrupt (s : State) (toS : Bool) (code : Nat) : State :=
  if s.fatal && (!toS || s.status.sdt) then s.setCriticalError true
  else s.countIdle.deliver toS true code 0

/-- Entry of the NMI handler of a hart without Smrnmi (60_exceptions.md R500, 92_eei_decisions.md D27). -/
def State.enterNmi (s : State) : State :=
  let m := s.csr.mstatus
  let c := { s.csr with
    mepc := s.legalizeEpc s.pc
    mcause := narrow s.cfg.mxlen s.cfg.nmiCause
    mstatus := { m with
      mpie := m.mie
      mie := false
      mpp := s.priv
      mpelp := s.nextMpelp
      mdt := if s.cfg.ext.smdbltrp then true else m.mdt } }
  ((((s.setCsr c).setPriv .m).setPc (narrow s.cfg.mxlen s.cfg.nmiVector)).setWait .running).setElp (s.elpIn .m)

/-- A non-maskable interrupt; with Smrnmi it is an RNMI, which is never an unexpected trap; without it one that meets
`MDT` = 1 leads to the critical-error state (60_exceptions.md R492, R500, R503). A WFI that waits under the time limit is
dropped by it, unretired and with its own address saved: R423 and R540 do not say (DESIGN CHOICE, log entry 9). -/
def State.takeNmi (s : State) : State :=
  if s.cfg.ext.smrnmi then s.countIdle.enterRnmi s.priv (narrow s.cfg.mxlen s.cfg.nmiCause)
  else if s.cfg.ext.smdbltrp && s.status.mdt then s.setCriticalError true
  else s.countIdle.enterNmi

/-! ### Returning from a trap -/

/-- The reservation after an xRET (42_trap_return.md R415). -/
def State.xretReservation (s : State) : Option (List Nat) :=
  if s.cfg.xretClearsReservation then none else s.reservation

/-- A jump to a return address in the mode the return leaves the hart in (42_trap_return.md R411, R418). -/
def State.finishReturn (s : State) (target : Word) : State :=
  ((s.jump target).setReservation s.xretReservation).setElp (s.elpIn s.priv)

/-- The pop of MRET (42_trap_return.md R411). -/
def State.returnM (s : State) : State :=
  let o := s.status
  let m := s.csr.mstatus
  let m' := { m with
    mie := o.mpie
    mpie := true
    mpp := s.leastMode
    mprv := if o.mpp = .m then m.mprv else false
    mdt := if s.cfg.ext.smdbltrp then false else m.mdt
    sdt := if s.sdtActive && o.mpp == .u then false else m.sdt
    mpelp := s.nextMpelp }
  (((s.countRetired none).setMstatus m').setPriv o.mpp).finishReturn (s.epcMasked s.csr.mepc)

/-- The pop of SRET (42_trap_return.md R413). In S-mode too `SDT` is cleared on a return to U alone, and `SIE` takes `SPIE`
whatever `SDT` is: the source leaves that to the supervisor chapter (DESIGN CHOICE, log entry 11). -/
def State.returnS (s : State) : State :=
  let o := s.status
  let m := s.csr.mstatus
  let y : Priv := if o.spp then .s else .u
  let m' := { m with
    sie := o.spie
    spie := true
    spp := false
    mprv := false
    mdt := if s.cfg.ext.smdbltrp && s.priv == .m then false else m.mdt
    sdt := if s.sdtActive && y == .u then false else m.sdt
    spelp := s.nextSpelp }
  (((s.countRetired none).setMstatus m').setPriv y).finishReturn (s.epcMasked s.sup.sepc)

/-- The pop of MNRET (42_trap_return.md R417; the rest PRESUMED, log entry 13). Like an xRET it may clear the reservation
(R415 does not name MNRET: DESIGN CHOICE, log entry 13). `MPELP` and `SPELP` keep their values, no rule says what MNRET does to
them (10_state.md R74, 91_not_in_source.md N9, N27; DESIGN CHOICE, log entry 12). -/
def State.returnRnmi (s : State) : State :=
  let m := s.csr.mstatus
  let y : Priv := if s.modeExists s.rnmi.mnpp then s.rnmi.mnpp else .m
  let m' := { m with
    mprv := if y = .m then m.mprv else false
    mdt := if s.cfg.ext.smdbltrp && y != .m then false else m.mdt
    sdt := if s.sdtActive && y == .u then false else m.sdt }
  ((((s.countRetired none).setMstatus m').setRnmi { s.rnmi with nmie := true }).setPriv y).finishReturn
    (s.epcMasked s.rnmi.mnepc)

end Sys2Proof.Machine
end

