-- ==== Sys2Proof/Machine/Pmp.lean ====
section
/-! DEFINITION. Physical memory protection: the registers as they read and are written
(12_state_config_pmp_mmio.md R210 to R222) and the check of a memory operation (20_memory.md R270 to R278). -/

namespace Sys2Proof.Machine

/-! ### Entries -/

/-- Entry i; an entry beyond `PMP_N` is read-only zero (12_state_config_pmp_mmio.md R210, 92_eei_decisions.md D14). -/
def State.pmpEntry (s : State) (i : Nat) : PmpEntry :=
  if i < s.cfg.pmpN.num then (s.pmp[i]?).getD PmpEntry.off else PmpEntry.off

/-- Table 13 (12_state_config_pmp_mmio.md R213). -/
def addrModeCode : AddrMode → BitVec 2
  | .off => 0
  | .tor => 1
  | .na4 => 2
  | .napot => 3

/-- The address mode of an encoding. -/
def addrModeOf (v : BitVec 2) : AddrMode :=
  if v = 0 then .off else if v = 1 then .tor else if v = 2 then .na4 else .napot

/-- The configuration byte (12_state_config_pmp_mmio.md R211). -/
def pmpCfgByte (c : PmpCfg) : Word :=
  flag c.r 0 ||| flag c.w 1 ||| flag c.x 2 ||| pair (addrModeCode c.a) 3 ||| flag c.l 7

/-- The configuration that a byte stands for; bits 6:5 are ignored (12_state_config_pmp_mmio.md R211, R221). -/
def pmpCfgOf (v : Word) : PmpCfg where
  r := v.getLsbD 0
  w := v.getLsbD 1
  x := v.getLsbD 2
  a := addrModeOf (pairAt v 3)
  l := v.getLsbD 7

/-- `locked(i)` (12_state_config_pmp_mmio.md R221). -/
def State.pmpLocked (s : State) (i : Nat) : Bool := (s.pmpEntry i).cfg.l && !s.seccfg.rlb

/-- Some entry has `L` set, also one that is off (12_state_config_pmp_mmio.md R195). -/
def State.anyPmpLock (s : State) : Bool := (List.range s.cfg.pmpN.num).any (fun i => (s.pmpEntry i).cfg.l)

/-! ### Legal configurations -/

/-- REF's `legalize_pmpcfg`: the reserved R=0, W=1 stores no permission unless `MML` makes it legal, NA4 with a coarser
grain stores OFF (12_state_config_pmp_mmio.md R212, R217, 92_eei_decisions.md D15). -/
def State.pmpCfgLegal (s : State) (c : PmpCfg) : PmpCfg :=
  let reserved := !s.seccfg.mml && !c.r && c.w
  { r := c.r
    w := c.w && !reserved
    x := c.x && !reserved
    a := if c.a = .na4 ∧ 1 ≤ s.cfg.pmpG then .off else c.a
    l := c.l }

/-- Some entry has these as its reset values (12_state_config_pmp_mmio.md R222). -/
def pmpResetHas (c : Cfg) (p : PmpEntry → Bool) : Bool := (PmpEntry.off :: c.pmpReset).any p

/-- `legalize_pmpcfg` (00_scope.md R6; log entry 32). -/
def State.legalizePmpCfg (s : State) (old : PmpCfg) (v : Word) : PmpCfg :=
  pmpCfgOf (warlChoice s.cfg .pmpcfg (fun v => pmpResetHas s.cfg (fun e => pmpCfgByte e.cfg == v))
    (fun v => pmpCfgByte (s.pmpCfgLegal (pmpCfgOf v))) (pmpCfgByte old) v)

/-- An executable rule that is M-mode-only or a locked Shared-Region: LRWX 1001, 1101, 1010, 1011
(12_state_config_pmp_mmio.md R198, R199). -/
def machineExec (c : PmpCfg) : Bool := c.l && ((c.x && !c.w) || (!c.r && c.w))

/-- With `MML` set and `RLB` clear such a rule cannot be added: its byte is skipped (12_state_config_pmp_mmio.md R199;
log entry 33). -/
def State.pmpAddRefused (s : State) (c : PmpCfg) : Bool := s.seccfg.mml && !s.seccfg.rlb && machineExec c

/-! ### Configuration registers -/

/-- Entry i after a write of its configuration byte (12_state_config_pmp_mmio.md R221). -/
def State.pmpCfgWritten (s : State) (i : Nat) (v : Word) : PmpEntry :=
  let e := s.pmpEntry i
  let c := s.legalizePmpCfg e.cfg v
  if s.pmpLocked i || s.pmpAddRefused c then e else { e with cfg := c }

/-- The entries after the low n bytes of a write of `pmpcfgK` (12_state_config_pmp_mmio.md R221). -/
def State.pmpCfgBytes (s : State) (k : Nat) (w : Word) : Nat → Vector PmpEntry 64
  | 0 => s.pmp
  | n + 1 =>
    let i := 4 * k + n
    let v := s.pmpCfgBytes k w n
    if i < s.cfg.pmpN.num then v.setIfInBounds i (s.pmpCfgWritten i (w >>> (8 * n) &&& 0x9F)) else v

/-- `write_pmpcfg` (12_state_config_pmp_mmio.md R221). -/
def State.pmpcfgWrite (s : State) (k : Nat) (w : Word) : State := s.setPmp (s.pmpCfgBytes k w (s.cfg.mxlen.bits / 8))

/-- The low n bytes of `pmpcfgK` as they read (12_state_config_pmp_mmio.md R221). -/
def State.pmpCfgJoin (s : State) (k : Nat) : Nat → Word
  | 0 => 0
  | n + 1 => s.pmpCfgJoin k n ||| (pmpCfgByte (s.pmpEntry (4 * k + n)).cfg <<< (8 * n))

/-- `read_pmpcfg` (12_state_config_pmp_mmio.md R221). -/
def State.pmpcfgRead (s : State) (k : Nat) : Word := s.pmpCfgJoin k (s.cfg.mxlen.bits / 8)

/-! ### Address registers -/

/-- The bits of `pmpaddr` that encode implemented address bits (12_state_config_pmp_mmio.md R214). -/
def pmpaddrMask (c : Cfg) : Word :=
  BitVec.ofNat 64 (2 ^ (min c.paBits (match c.mxlen with | .x32 => 34 | .x64 => 56) - 2) - 1)

/-- `legalize_pmpaddr` (12_state_config_pmp_mmio.md R214; log entry 32). -/
def State.legalizePmpaddr (s : State) (old w : Word) : Word :=
  let mask := pmpaddrMask s.cfg
  warlChoice s.cfg .pmpaddr (fun v => pmpResetHas s.cfg (fun e => e.addr &&& mask == v)) (fun v => v &&& mask) (old &&& mask)
    (w &&& mask)

/-- `pmpaddr(i)` cannot be written: its entry is locked, or the next one is a locked TOR entry
(12_state_config_pmp_mmio.md R219, R221). -/
def State.pmpaddrLocked (s : State) (i : Nat) : Bool :=
  s.pmpLocked i || (s.pmpLocked (i + 1) && (s.pmpEntry (i + 1)).cfg.a == .tor)

/-- `write_pmpaddr` (12_state_config_pmp_mmio.md R221). -/
def State.pmpaddrWrite (s : State) (i : Nat) (w : Word) : State :=
  if i < s.cfg.pmpN.num ∧ s.pmpaddrLocked i = false then
    s.setPmp (s.pmp.setIfInBounds i { s.pmpEntry i with addr := s.legalizePmpaddr (s.pmpEntry i).addr w })
  else s

/-- The mask of n low one bits. -/
def lowOnes (n : Nat) : Word := BitVec.ofNat 64 (2 ^ n - 1)

/-- `pmpaddr_read(i)` (12_state_config_pmp_mmio.md R217). The ones that a grain gives a NAPOT register stop at the highest
implemented address bit, also where the grain is wider than the implemented address: R217 asks there for ones above it, R214
for zeros (DESIGN CHOICE, log entry 52). -/
def State.pmpaddrRead (s : State) (i : Nat) : Word :=
  let e := s.pmpEntry i
  let v := e.addr &&& pmpaddrMask s.cfg
  if 2 ≤ s.cfg.pmpG ∧ (addrModeCode e.cfg.a).getLsbD 1 = true then v ||| (lowOnes (s.cfg.pmpG - 1) &&& pmpaddrMask s.cfg)
  else if 1 ≤ s.cfg.pmpG ∧ (addrModeCode e.cfg.a).getLsbD 1 = false ∧ i < s.cfg.pmpN.num then v &&& ~~~lowOnes s.cfg.pmpG
  else v

/-! ### The check -/

/-- The type of a memory operation (20_memory.md R276). -/
inductive AccessType where
  | read
  | write
  | fetch
deriving DecidableEq, Repr

/-- A TOR bound: the low G bits do not affect the matching (12_state_config_pmp_mmio.md R217). -/
def State.torBound (s : State) (i : Nat) : Nat :=
  ((s.pmpEntry i).addr &&& pmpaddrMask s.cfg &&& ~~~lowOnes s.cfg.pmpG).toNat

/-- The byte address a is in `range(i)` (20_memory.md R271). -/
def State.pmpMatches (s : State) (i a : Nat) : Bool :=
  match (s.pmpEntry i).cfg.a with
  | .off => false
  | .tor => decide ((if i = 0 then 0 else s.torBound (i - 1)) ≤ a / 4) && decide (a / 4 < s.torBound i)
  | .na4 => s.cfg.pmpG == 0 && a / 4 == (s.pmpaddrRead i).toNat
  | .napot =>
    let v := (s.pmpaddrRead i).toNat
    let t := trailingOnes 64 v
    a / 2 ^ (t + 3) == v / 2 ^ (t + 1)

/-- The addresses of n bytes from a on. -/
def byteRange (a n : Nat) : List Nat := (List.range n).map (fun k => a + k)

/-- The lowest-numbered entry that matches any byte of the operation (20_memory.md R273). -/
def State.pmpFirst (s : State) (a n : Nat) : Option Nat :=
  (List.range s.cfg.pmpN.num).find? (fun i => (byteRange a n).any (s.pmpMatches i))

/-- The permission letter of an access type. -/
def permits (c : PmpCfg) : AccessType → Bool
  | .read => c.r
  | .write => c.w
  | .fetch => c.x

/-- The permission step without `MML` (20_memory.md R274). -/
def allowsPlain (c : PmpCfg) (t : AccessType) (ep : Priv) : Bool := (!c.l && ep == .m) || permits c t

/-- The permission step with `MML` (12_state_config_pmp_mmio.md R198). -/
def allowsMml (c : PmpCfg) (t : AccessType) (ep : Priv) : Bool :=
  if !c.r && c.w then
    if c.l then
      match t with
      | .fetch => true
      | .read => c.x && ep == .m
      | .write => false
    else
      match t with
      | .fetch => false
      | .read => true
      | .write => c.x || ep == .m
  else if c.l && c.r && c.w && c.x then t == .read
  else if c.l then ep == .m && permits c t
  else ep != .m && permits c t

/-- An operation that no entry matches (20_memory.md R275, R278; 12_state_config_pmp_mmio.md R196, R199). -/
def State.pmpNoMatch (s : State) (t : AccessType) (ep : Priv) : Bool :=
  ep == .m && !s.seccfg.mmwp && !(s.seccfg.mml && t == .fetch)

/-- `pmp_check` (20_memory.md R276, R278). With no entries every operation passes as R275 and R276 have it, also an M-mode one
under Smepmp with `MMWP` or `MML` set, which 12_state_config_pmp_mmio.md R196 and R199 and 20_memory.md R278 deny for want of a
matching entry (DESIGN CHOICE, log entry 55). -/
def State.pmpCheck (s : State) (a n : Nat) (t : AccessType) (ep : Priv) : Bool :=
  if s.cfg.pmpN = .none then true
  else match s.pmpFirst a n with
    | none => s.pmpNoMatch t ep
    | some i =>
      (byteRange a n).all (s.pmpMatches i) &&
        (if s.seccfg.mml then allowsMml (s.pmpEntry i).cfg t ep else allowsPlain (s.pmpEntry i).cfg t ep)

end Sys2Proof.Machine
end

