-- ==== Sys2Proof/Machine/Access.lean ====
section
/-! DEFINITION. Memory accesses: effective privilege and width, physical memory attributes, alignment, the memory-mapped
registers, and `MemRead`, `MemWrite`, `Fetch` (20_memory.md R250 to R288, 12_state_config_pmp_mmio.md R230 to R237). -/

namespace Sys2Proof.Machine

/-- The result of an access: a value, an exception (with the state it leaves, its code and its trap value), or a stop. -/
inductive Access (α : Type) where
  | ok (v : α)
  | exc (s : State) (code : Nat) (tval : Word)
  | stop (f : Fault)

/-- What kind of instruction makes the access; the source classes AMOs and LR/SC apart (20_memory.md R262, R263). -/
inductive AccessClass where
  | plain
  | loadReserved
  | storeConditional
  /-- An AMO that needs at least this level of support. -/
  | amo (level : AmoClass)
deriving DecidableEq, Repr

/-! ### Effective privilege (20_memory.md R256, R257) -/

/-- The effective privilege mode of an explicit access (20_memory.md R256). -/
def State.effPriv (s : State) : Priv := if s.status.mprv then s.status.mpp else s.priv

/-- An effective address cut to the effective XLEN, zero-extended; as a trap value it stands so too (20_memory.md R250, R257;
DESIGN CHOICE for the trap value, log entry 21). No address is masked: `menvcfg.PMM` and `mseccfg.PMM` at 10 or 11 have no
effect, where 12_state_config_pmp_mmio.md R183 and R201 enable pointer masking without giving its rule and
93_implementation_defined.md A.3 tells a model to refuse (DESIGN CHOICE, log entry 54). -/
def State.effAddr (s : State) (ea : Word) : Word := narrow (s.xlenOf s.effPriv) ea

/-- Explicit accesses of a mode are big-endian (20_memory.md R251). -/
def State.bigEndian (s : State) : Priv → Bool
  | .m => s.mbe
  | .s => s.sbe
  | .u => s.ube

/-! ### The memory-mapped registers (12_state_config_pmp_mmio.md R230 to R237) -/

/-- The value of a memory-mapped register; bits 31:1 of `msip` read 0 (12_state_config_pmp_mmio.md R235). -/
def State.deviceValue (s : State) : DeviceReg → Word
  | .mtime => s.plat.mtime
  | .mtimecmp => s.plat.mtimecmp
  | .msip => flag s.plat.msip 0

/-- A memory-mapped register replaced. -/
def State.setDevice (s : State) (v : Word) : DeviceReg → State
  | .mtime => s.setPlat { s.plat with mtime := v }
  | .mtimecmp => s.setPlat { s.plat with mtimecmp := v }
  | .msip => s.setPlat { s.plat with msip := v.getLsbD 0 }

/-- The widths of a memory-mapped register: 32 bits, and 64 on RV64 for the two of 64 bits
(12_state_config_pmp_mmio.md R233). -/
def deviceWidth (c : Cfg) (d : DeviceReg) (n : Nat) : Bool :=
  n == 4 || (n == 8 && c.mxlen == .x64 && d != .msip)

/-- An access of n bytes from a on that lies in one window is allowed; any other is an access fault, and so is every fetch,
LR, SC and AMO (12_state_config_pmp_mmio.md R233, 92_eei_decisions.md D18; R237 gives no PMA for the windows: DESIGN
CHOICE, log entry 23). -/
def deviceAllows (c : Cfg) (a n : Nat) (t : AccessType) (k : AccessClass) : Bool :=
  t != .fetch && k == .plain &&
    match deviceAt c a, deviceAt c (a + n - 1) with
    | some (d, o), some (d', _) => d == d' && o % n == 0 && deviceWidth c d n
    | _, _ => false

/-! ### Bytes -/

/-- One byte of the physical address space, a memory-mapped register's where the address is in a window. Byte k of `mtime`,
`mtimecmp` and `msip` stands at offset k whatever the byte order of the access, so a big-endian access sees the register
byte-swapped: 12_state_config_pmp_mmio.md R233 places the halves for a little-endian memory system only, and 20_memory.md R251
says nothing of the windows (DESIGN CHOICE, log entry 23). -/
def State.physRead (s : State) (a : Nat) : Byte :=
  match deviceAt s.cfg a with
  | some (d, o) => (s.deviceValue d).extractLsb' (8 * o) 8
  | none => Memory.read s.mem a

/-- A word with one byte replaced. -/
def setByte (v : Word) (o : Nat) (b : Byte) : Word :=
  (v &&& ~~~(0xFF#64 <<< (8 * o))) ||| (b.setWidth 64 <<< (8 * o))

/-- One byte written; in a window offset k is byte k of the register, as in `State.physRead` (DESIGN CHOICE for a big-endian
access: 12_state_config_pmp_mmio.md R233, 20_memory.md R251; log entry 23). -/
def State.physWrite (s : State) (a : Nat) (b : Byte) : State :=
  match deviceAt s.cfg a with
  | some (d, o) => s.setDevice (setByte (s.deviceValue d) o b) d
  | none => s.setMem (Memory.write s.mem a b)

/-- Bytes read at the given addresses. -/
def State.physReadAll (s : State) (as : List Nat) : List Byte := as.map s.physRead

/-- Bytes written at the given addresses. -/
def State.physWriteAll (s : State) : List (Nat × Byte) → State
  | [] => s
  | (a, b) :: rest => (s.physWrite a b).physWriteAll rest

/-! ### Physical memory attributes (20_memory.md R258 to R269) -/

/-- The order of the AMO classes of Table 12 (20_memory.md R262). -/
def amoRank : AmoClass → Nat
  | .amoNone => 0
  | .amoSwap => 1
  | .amoLogical => 2
  | .amoArithmetic => 3
  | .amoCasW => 4
  | .amoCasD => 5
  | .amoCasQ => 6

/-- A region supports the class of an access (20_memory.md R262, R263). -/
def regionClass (r : PmaRegion) : AccessClass → Bool
  | .plain => true
  | .loadReserved => r.rsrv != .rsrvNone
  | .storeConditional => r.rsrv != .rsrvNone
  | .amo level => decide (amoRank level ≤ amoRank r.amo)

/-- A region supports an access of n bytes (20_memory.md R261). -/
def regionAllows (r : PmaRegion) (n : Nat) (t : AccessType) (k : AccessClass) : Bool :=
  regionClass r k && match t with
    | .read => r.readWidths.contains n
    | .write => r.writeWidths.contains n
    | .fetch => r.exec

/-- The verdict of the PMA checker. -/
inductive PmaVerdict where
  | pass
  | fault
  /-- The bytes are in a region whose memory model the source leaves to the implementation. -/
  | incoherent (a : Nat)
deriving DecidableEq, Repr

/-- The checker for one byte of an access that touches no window (20_memory.md R259). -/
def pmaByte (c : Cfg) (n : Nat) (t : AccessType) (k : AccessClass) (a : Nat) : PmaVerdict :=
  match regionAt c a with
  | none => .fault
  | some r => if regionAllows r n t k then (if r.coherent then .pass else .incoherent a) else .fault

/-- The first verdict of a list that is no pass; a fault goes before an incoherent byte. -/
def worst : List PmaVerdict → PmaVerdict
  | [] => .pass
  | .pass :: vs => worst vs
  | .fault :: _ => .fault
  | .incoherent a :: vs => match worst vs with
    | .fault => .fault
    | _ => .incoherent a

/-- The PMA check of a memory operation on n bytes from a on: every byte (20_memory.md R259; log entry 23). -/
def pmaCheck (c : Cfg) (a n : Nat) (t : AccessType) (k : AccessClass) : PmaVerdict :=
  if (byteRange a n).any (fun b => (deviceAt c b).isSome) then (if deviceAllows c a n t k then .pass else .fault)
  else worst ((byteRange a n).map (pmaByte c n t k))

/-- Both checks of one memory operation (20_memory.md R285 steps 3 and 4). -/
def State.opCheck (s : State) (a n : Nat) (t : AccessType) (k : AccessClass) (ep : Priv) : PmaVerdict :=
  if s.pmpCheck a n t ep then pmaCheck s.cfg a n t k else .fault

/-! ### Alignment (20_memory.md R264, R265) -/

/-- What alignment says of an access. -/
inductive AlignVerdict where
  /-- One memory operation. -/
  | whole
  /-- One memory operation for each byte (log entry 22). -/
  | bytes
  /-- Address-misaligned, or in its place an access fault that the portion at an address causes. -/
  | misaligned (portion : Option Nat)
deriving DecidableEq, Repr

/-- All bytes lie within one misaligned atomicity granule (20_memory.md R264). -/
def inGranule (c : Cfg) (a n : Nat) : Bool :=
  match regionAt c a with
  | some r => match r.granule with
    | some g => a / g == (a + n - 1) / g
    | none => false
  | none => false

/-- Reads or writes of a region are idempotent (20_memory.md R269). -/
def idempotent (r : PmaRegion) : AccessType → Bool
  | .write => r.idempotentWrites
  | _ => r.idempotentReads

/-- Every region that an access touches supports misaligned accesses of n bytes (20_memory.md R261). -/
def supportsMisaligned (c : Cfg) (n : Nat) (as : List Nat) : Bool :=
  as.all (fun a => match regionAt c a with
    | some r => r.misalignedWidths.contains n
    | none => false)

/-- The byte at an address makes a misaligned access of n bytes an access fault: nothing stands there, or its region does not
support the access and is not idempotent or says so (20_memory.md R265; log entry 22). -/
def misalignedFaults (c : Cfg) (n : Nat) (t : AccessType) (k : AccessClass) (a : Nat) : Bool :=
  match regionAt c a with
  | none => true
  | some r => !(k == .plain && r.misalignedWidths.contains n) && (!idempotent r t || r.misalignedFault)

/-- `MISALIGNED_KIND`: the outcome of an access to the n bytes at the addresses `as`, from a on, by its alignment
(20_memory.md R261, R264, R265). A custom SYSTEM word's accesses are of class `plain` and judged as base loads and stores are, so
that in a granule they never raise for alignment: R264 does not name them (DESIGN CHOICE, log entry 58). -/
def alignVerdict (c : Cfg) (a n : Nat) (as : List Nat) (t : AccessType) (k : AccessClass) : AlignVerdict :=
  if a % n = 0 then .whole
  else if k != .loadReserved && k != .storeConditional && inGranule c a n then .whole
  else match c.misalignedKind with
    | .raiseMisaligned => .misaligned none
    | .raiseAccessFault => .misaligned (some a)
    | .perRegion =>
      if k == .plain && supportsMisaligned c n as then .bytes else .misaligned (as.find? (misalignedFaults c n t k))

/-! ### Explicit accesses -/

/-- The address-misaligned code: 4 of a load, 6 of a store or AMO (20_memory.md R288). -/
def misalignedCode : AccessType → AccessClass → Nat
  | .write, _ => 6
  | _, .amo _ => 6
  | _, _ => 4

/-- The access-fault code: 5 of a load, 7 of a store or AMO (20_memory.md R277, R288). -/
def faultCode : AccessType → AccessClass → Nat
  | .write, _ => 7
  | _, .amo _ => 7
  | _, _ => 5

/-- The byte addresses of an access, wrapping at the end of the address space (20_memory.md R250). -/
def State.accessAddrs (s : State) (ea : Word) (n : Nat) : List Nat :=
  (List.range n).map (fun k => (s.effAddr (ea + BitVec.ofNat 64 k)).toNat)

/-- The checks of one byte of an access of n bytes that is decomposed: PMP for the byte's own operation, and a region that
supports accesses of n bytes (20_memory.md R261, R272). -/
def State.byteCheck (s : State) (n : Nat) (t : AccessType) (k : AccessClass) (ep : Priv) (a : Nat) : PmaVerdict :=
  if s.pmpCheck a 1 t ep then pmaByte s.cfg n t k a else .fault

/-- The first byte of a decomposed access of n bytes that does not pass. -/
def State.firstBad (s : State) (n : Nat) (t : AccessType) (k : AccessClass) (ep : Priv) :
    List Nat → Option (Nat × PmaVerdict)
  | [] => none
  | a :: as => match s.byteCheck n t k ep a with
    | .pass => s.firstBad n t k ep as
    | v => some (a, v)

/-- What an access meets before it is performed. -/
inductive Verdict where
  | pass
  | exc (code : Nat) (tval : Word)
  /-- A decomposed access whose operation at an address fails (20_memory.md R272). -/
  | partWay (a code : Nat)
  | stop (f : Fault)
deriving DecidableEq, Repr

/-- An address as a trap value. -/
def asTval (a : Nat) : Word := BitVec.ofNat 64 a

/-- The address that an access fault of a misaligned access reports: that of its first failing byte
(11_state_trap_csrs.md R153). -/
def State.failingPortion (s : State) (ea : Word) (n : Nat) (t : AccessType) (k : AccessClass) : Word :=
  match (s.accessAddrs ea n).find? (fun b => s.byteCheck n t k s.effPriv b == .fault) with
  | some b => asTval b
  | none => s.effAddr ea

/-- The first byte of a misaligned access that is in a window of a memory-mapped register (12_state_config_pmp_mmio.md R233). -/
def State.misalignedDevice (s : State) (ea : Word) (n : Nat) : Option Nat :=
  if (s.effAddr ea).toNat % n = 0 then none else (s.accessAddrs ea n).find? (fun b => (deviceAt s.cfg b).isSome)

/-- The checks of a misaligned access as one operation; one that runs over the end of the address space is checked byte by
byte (20_memory.md R250; log entry 22). -/
def State.misalignedCheck (s : State) (ea : Word) (n : Nat) (t : AccessType) (k : AccessClass) : PmaVerdict :=
  let v := (s.effAddr ea).toNat
  if s.accessAddrs ea n == byteRange v n then s.opCheck v n t k s.effPriv
  else worst ((s.accessAddrs ea n).map (s.byteCheck n t k s.effPriv))

/-- Steps 1 to 4 of `MemRead` and `MemWrite` (20_memory.md R285, R286; the order of 60_exceptions.md R456): a misaligned
access to a window is an access fault (12_state_config_pmp_mmio.md R233, 92_eei_decisions.md D18); any other is judged by
`MISALIGNED_KIND` and `MISALIGNED_FIRST`. An access fault of a misaligned access reports the portion that causes it
(11_state_trap_csrs.md R153). -/
def State.accessVerdict (s : State) (ea : Word) (n : Nat) (t : AccessType) (k : AccessClass) : Verdict :=
  let ep := s.effPriv
  let v := s.effAddr ea
  let a := v.toNat
  match s.misalignedDevice ea n with
  | some b => .exc (faultCode t k) (asTval b)
  | none =>
    match alignVerdict s.cfg a n (s.accessAddrs ea n) t k with
    | .misaligned portion =>
      if !s.cfg.misalignedFirst && s.misalignedCheck ea n t k == .fault then
        .exc (faultCode t k) (s.failingPortion ea n t k)
      else match portion with
        | some b => .exc (faultCode t k) (asTval b)
        | none => .exc (misalignedCode t k) v
    | .whole =>
      match s.opCheck a n t k ep with
      | .pass => .pass
      | .fault => .exc (faultCode t k) v
      | .incoherent b => .stop (.incoherentMemory b)
    | .bytes =>
      match s.firstBad n t k ep (s.accessAddrs ea n) with
      | none => .pass
      | some (_, .incoherent b) => .stop (.incoherentMemory b)
      | some (b, _) => .partWay b (faultCode t k)

/-- The order of an access's bytes in memory (20_memory.md R251). -/
def State.inOrder (s : State) (bs : List Byte) : List Byte := if s.bigEndian s.effPriv then bs.reverse else bs

/-- `MemRead(ea, n)`: the value of n bytes (20_memory.md R285). -/
def State.memRead (s : State) (ea : Word) (n : Nat) (k : AccessClass) : Access Word :=
  match s.accessVerdict ea n .read k with
  | .pass => .ok (BitVec.ofNat 64 (bytesToNat (s.inOrder (s.physReadAll (s.accessAddrs ea n)))))
  | .exc code tval => .exc s code tval
  | .partWay a code => .exc s code (asTval a)
  | .stop f => .stop f

/-- The addresses and bytes a store writes (20_memory.md R251, R286). -/
def State.storeCells (s : State) (ea : Word) (n : Nat) (v : Word) : List (Nat × Byte) :=
  (s.accessAddrs ea n).zip (s.inOrder (natToBytes n v.toNat))

/-- The cells before the one at an address. -/
def cellsBefore (a : Nat) (cs : List (Nat × Byte)) : List (Nat × Byte) := cs.takeWhile (fun c => c.1 != a)

/-- `MemWrite(ea, n, v)`: the state after it; a decomposed store that fails may leave the part before the failing one
visible (20_memory.md R272, R286). -/
def State.memWrite (s : State) (ea : Word) (n : Nat) (v : Word) (k : AccessClass) : Access State :=
  match s.accessVerdict ea n .write k with
  | .pass => .ok (s.physWriteAll (s.storeCells ea n v))
  | .exc code tval => .exc s code tval
  | .partWay a code =>
    .exc (if Config.partialStore s.ctr then s.physWriteAll (cellsBefore a (s.storeCells ea n v)) else s) code (asTval a)
  | .stop f => .stop f

/-! ### Fetch -/

/-- One operation of a fetch: n bytes at the virtual address v, which an access fault reports zero-extended
(20_memory.md R287; log entry 21). -/
def State.fetchOp (s : State) (v : Word) (n : Nat) : Access (BitVec 32) :=
  match s.opCheck v.toNat n .fetch .plain s.priv with
  | .pass => .ok (BitVec.ofNat 32 (bytesToNat (s.physReadAll (byteRange v.toNat n))))
  | .fault => .exc s 1 v
  | .incoherent a => .stop (.incoherentMemory a)

/-- `Fetch(pc)`: with IALIGN=32 one operation of 4 bytes, with IALIGN=16 one or two of 2 bytes, a 16-bit instruction
zero-extended (20_memory.md R252, R287; 30_encoding.md R330; log entry 24). -/
def State.fetch (s : State) : Access (BitVec 32) :=
  if s.extC then
    match s.fetchOp s.pcAddr 2 with
    | .ok lo =>
      if lo.extractLsb' 0 2 = 0b11#2 then
        match s.fetchOp (narrow s.xlen (s.pcAddr + 2)) 2 with
        | .ok hi => .ok (lo ||| (hi <<< 16))
        | e => e
      else .ok lo
    | e => e
  else s.fetchOp s.pcAddr 4

/-- How many bytes of an instruction longer than 32 bits stand behind its first four, as far as ILEN and MXLEN reach
(11_state_trap_csrs.md R155; the length encodings of Volume I are PRESUMED, log entry 48). -/
def State.tailBytes (s : State) (w : BitVec 32) : Nat :=
  let length := if w.extractLsb' 0 6 = 0b011111#6 then 48 else if w.extractLsb' 0 6 = 0b111111#6 then 64 else 32
  (min (min length s.cfg.ilen) s.cfg.mxlen.bits - 32) / 8

/-- The bits behind the first 32 of a longer instruction: one operation of 2 or, with IALIGN=32, 4 bytes, or two of 2
bytes (log entry 48). -/
def State.fetchTail (s : State) (n : Nat) : Access (BitVec 32) :=
  if n ≤ 2 || !s.extC then s.fetchOp (narrow s.xlen (s.pcAddr + 4)) n
  else
    match s.fetchOp (narrow s.xlen (s.pcAddr + 4)) 2 with
    | .ok lo =>
      match s.fetchOp (narrow s.xlen (s.pcAddr + 6)) 2 with
      | .ok hi => .ok (lo ||| (hi <<< 16))
      | e => e
    | e => e

/-! ### Accesses of an instruction -/

/-- The result of an access made by an instruction. -/
def State.onAccess {α : Type} (r : Access α) (f : α → State) : Host.Outcome State Fault Refusal :=
  match r with
  | .ok v => .next (f v)
  | .exc t code tval => .next (t.raise code tval)
  | .stop g => .fault g

end Sys2Proof.Machine
end

