-- ==== Sys2Proof/Machine/Operands.lean ====
section
/-! DEFINITION. The operand forms of the instructions of the opcode table: a register source, a five-bit immediate, and
which CSR accesses a form makes (40_csr_access.md R365, R376 to R381). -/

namespace Sys2Proof.Machine

/-- What a CSR instruction does to the old value: write, set bits, clear bits (40_csr_access.md R376 to R378). -/
inductive CsrOp where
  | write
  | set
  | clear
deriving DecidableEq, Repr

/-- The new value, of the old value of the read-modify-write and the operand. -/
def CsrOp.apply (o : CsrOp) (old t : Word) : Word :=
  match o with
  | .write => t
  | .set => old ||| t
  | .clear => old &&& ~~~t

/-- One CSR instruction, its operand read and its accesses known. -/
structure CsrUse where
  csr : BitVec 12
  rd : BitVec 5
  op : CsrOp
  /-- The XLEN-bit source operand. -/
  operand : Word
  reads : Bool
  writes : Bool
deriving DecidableEq, Repr

/-- A five-bit immediate, zero-extended (40_csr_access.md R379). -/
def uimmValue (u : BitVec 5) : Word := u.setWidth 64

/-- Whether a form reads the CSR (40_csr_access.md R365). -/
def CsrOp.readsCsr (o : CsrOp) (rd : BitVec 5) : Bool :=
  match o with
  | .write => rd != 0
  | _ => true

/-- Whether a form writes the CSR: by the register number or the immediate, not by a value (40_csr_access.md R365). -/
def CsrOp.writesCsr (o : CsrOp) (source : BitVec 5) : Bool :=
  match o with
  | .write => true
  | _ => source != 0

/-- A register form: the operand is `x[rs1]` before `rd` is written (40_csr_access.md R371). -/
def State.registerUse (s : State) (o : CsrOp) (rd rs1 : BitVec 5) (csr : BitVec 12) : CsrUse :=
  { csr := csr, rd := rd, op := o, operand := s.readX rs1, reads := o.readsCsr rd, writes := o.writesCsr rs1 }

/-- An immediate form. -/
def immediateUse (o : CsrOp) (rd uimm : BitVec 5) (csr : BitVec 12) : CsrUse :=
  { csr := csr, rd := rd, op := o, operand := uimmValue uimm, reads := o.readsCsr rd, writes := o.writesCsr uimm }

end Sys2Proof.Machine
end

