-- ==== Sys2Proof/Machine/CsrMap.lean ====
section
/-! DEFINITION. The CSR address map (10_state.md R24), which registers exist in the configuration
(40_csr_access.md R368), and the checks of an access (R369 to R375). -/

namespace Sys2Proof.Machine

/-- A CSR by name. `n` numbers follow the register's own number; `high` is the `h` form. -/
inductive CsrName where
  | mvendorid | marchid | mimpid | mhartid | mconfigptr
  | mstatus | misa | medeleg | mideleg | mie | mtvec | mcounteren | menvcfg
  | mstatush | medelegh | menvcfgh | mcountinhibit
  | mscratch | mepc | mcause | mtval | mip
  | mseccfg | mseccfgh
  /-- `mhpmevent`n and `mhpmevent`nh. -/
  | mhpmevent (n : Nat) (high : Bool)
  /-- `pmpcfg`n. -/
  | pmpcfg (n : Nat)
  /-- `pmpaddr`n. -/
  | pmpaddr (n : Nat)
  /-- `mcycle` (0), `minstret` (2), `mhpmcounter`n (3 to 31). -/
  | counter (n : Nat) (high : Bool)
  /-- `cycle` (0), `time` (1), `instret` (2), `hpmcounter`n (3 to 31). -/
  | shadow (n : Nat) (high : Bool)
  | sstatus | sie | stvec | scounteren | sepc | scause | stval | sip | stimecmp | stimecmph | satp
  | seed
  | mnepc | mncause | mnstatus
  | fflags | frm | fcsr
  | vstart | vxsat | vxrm | vcsr | vl | vtype | vlenb
  | senvcfg
  /-- A custom CSR, by its address (92_eei_decisions.md D29). -/
  | custom (a : BitVec 12)
deriving DecidableEq, Repr

/-- The registers with an address of their own (10_state.md R24), first part. -/
def csrTableM : List (BitVec 12 × CsrName) :=
  [(0xF11, .mvendorid), (0xF12, .marchid), (0xF13, .mimpid), (0xF14, .mhartid), (0xF15, .mconfigptr),
   (0x300, .mstatus), (0x301, .misa), (0x302, .medeleg), (0x303, .mideleg), (0x304, .mie), (0x305, .mtvec),
   (0x306, .mcounteren), (0x30A, .menvcfg), (0x310, .mstatush), (0x312, .medelegh), (0x31A, .menvcfgh),
   (0x320, .mcountinhibit), (0x340, .mscratch), (0x341, .mepc), (0x342, .mcause), (0x343, .mtval), (0x344, .mip),
   (0x747, .mseccfg), (0x757, .mseccfgh)]

/-- The registers of other chapters (10_state.md R24; `scounteren`, `stimecmph` and the address of `senvcfg` PRESUMED, log
entries 14, 44). -/
def csrTableOther : List (BitVec 12 × CsrName) :=
  [(0x100, .sstatus), (0x104, .sie), (0x105, .stvec), (0x106, .scounteren), (0x10A, .senvcfg), (0x141, .sepc), (0x142, .scause),
   (0x143, .stval), (0x144, .sip), (0x14D, .stimecmp), (0x15D, .stimecmph), (0x180, .satp), (0x015, .seed),
   (0x741, .mnepc), (0x742, .mncause), (0x744, .mnstatus),
   (0x001, .fflags), (0x002, .frm), (0x003, .fcsr),
   (0x008, .vstart), (0x009, .vxsat), (0x00A, .vxrm), (0x00F, .vcsr), (0xC20, .vl), (0xC21, .vtype), (0xC22, .vlenb)]

/-- The register at a CSR address, if the address is one of 10_state.md R24. -/
def csrNamed (a : BitVec 12) : Option CsrName :=
  let n := a.toNat
  if 0x323 ≤ n ∧ n ≤ 0x33F then some (.mhpmevent (n - 0x320) false)
  else if 0x723 ≤ n ∧ n ≤ 0x73F then some (.mhpmevent (n - 0x720) true)
  else if 0x3A0 ≤ n ∧ n ≤ 0x3AF then some (.pmpcfg (n - 0x3A0))
  else if 0x3B0 ≤ n ∧ n ≤ 0x3EF then some (.pmpaddr (n - 0x3B0))
  else if 0xB00 ≤ n ∧ n ≤ 0xB1F ∧ n ≠ 0xB01 then some (.counter (n - 0xB00) false)
  else if 0xB80 ≤ n ∧ n ≤ 0xB9F ∧ n ≠ 0xB81 then some (.counter (n - 0xB80) true)
  else if 0xC00 ≤ n ∧ n ≤ 0xC1F then some (.shadow (n - 0xC00) false)
  else if 0xC80 ≤ n ∧ n ≤ 0xC9F then some (.shadow (n - 0xC80) true)
  else (((csrTableM ++ csrTableOther).find? (fun e => e.1 == a)).map (fun e => e.2))

/-- The custom CSR at an address (92_eei_decisions.md D29). -/
def customCsrAt (c : Cfg) (a : BitVec 12) : Option CustomCsr := c.customCsrs.find? (fun r => r.address == a)

/-- The register at a CSR address of this hart: one of the map, or a custom one (10_state.md R24, 92_eei_decisions.md D29;
log entry 19). -/
def State.csrAt (s : State) (a : BitVec 12) : Option CsrName :=
  match csrNamed a with
  | some n => some n
  | none => if (customCsrAt s.cfg a).isSome then some (.custom a) else none

/-- MXLEN is 32. -/
def State.rv32 (s : State) : Bool := s.cfg.mxlen == .x32

/-- `exists(a, cfg)` (40_csr_access.md R368; 10_state.md R24, column "exists when"). -/
def State.csrExists (s : State) : CsrName → Bool
  | .mvendorid | .marchid | .mimpid | .mhartid | .mconfigptr => true
  | .mstatus | .misa | .mie | .mtvec => true
  | .medeleg | .mideleg => s.hasS
  | .mcounteren | .menvcfg => s.hasU
  | .mstatush => s.rv32
  | .medelegh => s.rv32 && s.hasS
  | .menvcfgh => s.rv32 && s.hasU
  | .mcountinhibit => s.cfg.mcountinhibitImpl
  | .mscratch | .mepc | .mcause | .mtval | .mip => true
  | .mseccfg => s.hasSeccfg
  | .mseccfgh => s.rv32 && s.hasSeccfg
  | .mhpmevent _ high => !high || (s.rv32 && s.cfg.ext.sscofpmf)
  | .pmpcfg n => s.cfg.pmpN != .none && (s.rv32 || n % 2 == 0)
  | .pmpaddr _ => s.cfg.pmpN != .none
  | .counter _ high => !high || s.rv32
  | .shadow n high => (if n < 3 then s.cfg.zicntrImpl else s.cfg.zihpmImpl) && (!high || s.xlen == .x32) && (n != 1 || s.cfg.timeCsrImpl)
  | .sstatus | .sie | .stvec | .scounteren | .sepc | .scause | .stval | .sip | .satp | .senvcfg => s.hasS
  | .stimecmp => s.hasS && s.cfg.ext.sstc
  | .stimecmph => s.hasS && s.cfg.ext.sstc && s.xlen == .x32
  | .seed => s.cfg.ext.zkr
  | .mnepc | .mncause | .mnstatus => s.cfg.ext.smrnmi
  | .fflags | .frm | .fcsr => s.extF
  | .vstart | .vxsat | .vxrm | .vcsr | .vl | .vtype | .vlenb => s.extV
  | .custom a => (customCsrAt s.cfg a).isSome

/-- `mcounteren` as it reads (11_state_trap_csrs.md R134). -/
def State.mcounterenRead (s : State) : BitVec 32 := s.csr.mcounteren &&& s.cfg.mcounterenWmask

/-- The counter access check for bit n (40_csr_access.md R374). -/
def State.counterAllowed (s : State) (n : Nat) : Bool :=
  match s.priv with
  | .m => true
  | .s => s.mcounterenRead.getLsbD n
  | .u => s.mcounterenRead.getLsbD n && (!s.hasS || s.sup.scounteren.getLsbD n)

/-- The access check of `seed`; a form that writes counts as read-write (40_csr_access.md R375,
12_state_config_pmp_mmio.md R193; log entry 37). -/
def State.seedAllowed (s : State) (writes : Bool) : Bool :=
  writes && match s.priv with
    | .m => true
    | .s => s.seccfg.sseed
    | .u => s.seccfg.useed

/-- A custom CSR that holds state of an additional extension cannot be reached while its status is Off; the register with
the status field can (10_state.md R65, R67, R68). -/
def State.customCsrOn (s : State) (a : BitVec 12) : Bool :=
  (customCsrAt s.cfg a).all (fun r => r.statusAt.isSome || r.extension.all (fun i => s.unitOn (.other i)))

/-- The unit that a register's state belongs to; a register with a status field holds no state of its unit
(10_state.md R65, R67). -/
def State.registerUnit (s : State) : CsrName → Option StateUnit
  | .fflags | .frm | .fcsr => some .float
  | .vstart | .vxsat | .vxrm | .vcsr | .vl | .vtype | .vlenb => some .vector
  | .custom a => match customCsrAt s.cfg a with
    | some { extension := some i, statusAt := none, .. } => some (.other i)
    | _ => none
  | _ => none

/-- `special_check` (40_csr_access.md R374, R375), and the status of the unit or extension that the register belongs to
(10_state.md R67). -/
def State.csrSpecial (s : State) (writes : Bool) : CsrName → Bool
  | .shadow n _ => s.counterAllowed n
  | .satp => !(s.priv == .s && s.status.tvm)
  | .stimecmp | .stimecmph => s.priv == .m || (s.mcounterenRead.getLsbD 1 && s.envcfg.stce)
  | .seed => s.seedAllowed writes
  | .fflags | .frm | .fcsr => s.status.fs != 0
  | .vstart | .vxsat | .vxrm | .vcsr | .vl | .vtype | .vlenb => s.status.vs != 0
  | .custom a => s.customCsrOn a
  | _ => true

/-- The lowest privilege an address allows; the encoding 10 is reached from M only (40_csr_access.md R364, R369). -/
def State.privAllows (s : State) (a : BitVec 12) : Bool := (a.extractLsb' 8 2).toNat ≤ s.priv.code.toNat

/-- The address marks a read-only register (40_csr_access.md R364, R370). -/
def csrReadOnly (a : BitVec 12) : Bool := a.extractLsb' 10 2 == 3

/-- The checks of 40_csr_access.md R371, steps 1 to 4. -/
def State.csrAllowed (s : State) (n : CsrName) (a : BitVec 12) (writes : Bool) : Bool :=
  s.csrExists n && s.privAllows a && !(writes && csrReadOnly a) && s.csrSpecial writes n

end Sys2Proof.Machine
end

