-- ==== Sys2Proof/Machine/CsrRead.lean ====
section
/-! DEFINITION. `csr_read` (40_csr_access.md R366): the value of every register of the map. -/

namespace Sys2Proof.Machine

/-- The letters of Table 2 that are not reserved, the hypervisor's apart (10_state.md R33; 92_eei_decisions.md D3). -/
def misaLetters : BitVec 26 := 0x0B5113F

/-- `Extensions` as it reads: `E` is the complement of `I` (10_state.md R34). -/
def misaView (v : BitVec 26) : BitVec 26 :=
  let u := v &&& misaLetters &&& ~~~0x10#26
  if u.getLsbD 8 then u else u ||| 0x10#26

/-- The value read from `misa` (10_state.md R30 to R34). -/
def State.misaRead (s : State) : Word :=
  if !s.cfg.misaImpl then 0
  else pair s.cfg.mxlen.code (s.cfg.mxlen.bits - 2) ||| (misaView s.csr.misa).setWidth 64

/-- `mcountinhibit` as it reads; bit 1 is no field (11_state_trap_csrs.md R137). -/
def State.mcountinhibitRead (s : State) : BitVec 32 := s.csr.mcountinhibit &&& s.cfg.mcountinhibitWmask &&& ~~~2#32

/-- The 64 bits of a counter: 0 `mcycle`, 1 `time`, 2 `minstret`, else an event counter, read-only 0 where it is not
implemented (11_state_trap_csrs.md R125 to R133). -/
def State.counterValue (s : State) (n : Nat) : Word :=
  if n = 0 then s.cnt.mcycle
  else if n = 1 then s.timeNow
  else if n = 2 then s.cnt.minstret
  else if s.cfg.hpmImpl.getLsbD n then (s.cnt.hpmcounter[n - 3]?).getD 0
  else 0

/-- The writable bits of an event selector; with Sscofpmf also `OF` (11_state_trap_csrs.md R129, R130). -/
def State.hpmeventMask (s : State) : Word := s.cfg.mhpmeventWmask ||| flag s.cfg.ext.sscofpmf 63

/-- `mhpmevent`n (11_state_trap_csrs.md R129). -/
def State.hpmeventValue (s : State) (n : Nat) : Word :=
  if s.cfg.hpmImpl.getLsbD n then (s.cnt.hpmevent[n - 3]?).getD 0 &&& s.hpmeventMask else 0

/-- The upper half where the `h` form is meant. -/
def halfOf (high : Bool) (v : Word) : Word := if high then highHalf v else v

/-- The fields of `menvcfg` at their positions (12_state_config_pmp_mmio.md R170). -/
def Menvcfg.word (m : Menvcfg) : Word :=
  flag m.fiom 0 ||| flag m.lpe 2 ||| flag m.sse 3 ||| pair m.cbie 4 ||| flag m.cbcfe 6 ||| flag m.cbze 7 |||
    pair m.pmm 32 ||| flag m.dte 59 ||| flag m.cde 60 ||| flag m.adue 61 ||| flag m.pbmte 62 ||| flag m.stce 63

/-- The value of `menvcfg`. -/
def State.menvcfgRead (s : State) : Word := s.envcfg.word

/-- The fields of `mseccfg` at their positions (12_state_config_pmp_mmio.md R190). -/
def Mseccfg.word (m : Mseccfg) : Word :=
  flag m.mml 0 ||| flag m.mmwp 1 ||| flag m.rlb 2 ||| flag m.useed 8 ||| flag m.sseed 9 ||| flag m.mlpe 10 |||
    pair m.pmm 32

/-- The value of `mseccfg`. -/
def State.mseccfgRead (s : State) : Word := s.seccfg.word

/-- The value of `mnstatus`: NMIE bit 3, MNPP bits 12:11 (PRESUMED, log entry 13). -/
def State.mnstatusRead (s : State) : Word := flag s.rnmi.nmie 3 ||| pair s.rnmi.mnpp.code 11

/-- The MODE field of a value written to `satp`; a write that asks for a mode other than Bare is ignored
(92_eei_decisions.md D4; PRESUMED, log entry 14). -/
def satpMode (x : Xlen) (w : Word) : Word :=
  match x with
  | .x64 => w >>> 60
  | .x32 => w >>> 31

/-- The bits of `satp` below its MODE field, which is read-only 0 (92_eei_decisions.md D4). SXLEN selects the layout, in M-mode
too (DESIGN CHOICE, log entry 53). -/
def satpBits : Xlen → Word
  | .x64 => 0x0FFFFFFFFFFFFFFF
  | .x32 => 0x7FFFFFFF

/-- `mconfigptr`: a constant, or the value of a memory-mapped register that the platform or M-mode programs, little-endian
(11_state_trap_csrs.md R161; log entry 42); its low bits are zero by its alignment (R160). -/
def State.mconfigptrRead (s : State) : Word :=
  let n := s.cfg.mxlen.bits / 8
  let v := match s.cfg.mconfigptrAt with
    | none => s.cfg.mconfigptr
    | some a => BitVec.ofNat 64 (bytesToNat (s.physReadAll (byteRange a n)))
  v &&& ~~~BitVec.ofNat 64 (n - 1)

/-- The value of `senvcfg`, at the positions of `menvcfg`'s fields (PRESUMED, log entry 44). -/
def State.senvcfgRead (s : State) : Word :=
  let m := s.senvcfg
  flag m.fiom 0 ||| flag m.lpe 2 ||| flag m.sse 3 ||| pair m.cbie 4 ||| flag m.cbcfe 6 ||| flag m.cbze 7 |||
    pair m.pmm 32

/-- The value of a custom CSR: free, but for the status field of its extension (10_state.md R65, 92_eei_decisions.md D29; log
entries 19, 40). -/
def State.customCsrRead (s : State) (a : BitVec 12) : Word :=
  let v := Config.customCsr a s.ctr
  match customCsrAt s.cfg a with
  | some { extension := some i, statusAt := some p, .. } => withBits (pair 3 p) v (pair ((s.units.statuses[i]?).getD 0) p)
  | _ => v

/-- `csr_read`, before it is cut to XLEN bits (40_csr_access.md R366, R384). -/
def State.csrRead (s : State) : CsrName → Word
  | .mvendorid => s.cfg.mvendorid.setWidth 64
  | .marchid => s.cfg.marchid
  | .mimpid => s.cfg.mimpid
  | .mhartid => s.cfg.mhartid
  | .mconfigptr => s.mconfigptrRead
  | .mstatus => s.mstatusRead
  | .misa => s.misaRead
  | .medeleg => s.medelegRead
  | .mideleg => s.midelegRead
  | .mie => s.mieRead
  | .mtvec => s.csr.mtvec
  | .mcounteren => s.mcounterenRead.setWidth 64
  | .menvcfg => s.menvcfgRead
  | .mstatush => s.mstatushRead
  | .medelegh => highHalf s.medelegRead
  | .menvcfgh => highHalf s.menvcfgRead
  | .mcountinhibit => s.mcountinhibitRead.setWidth 64
  | .mscratch => s.csr.mscratch
  | .mepc => s.epcMasked s.csr.mepc
  | .mcause => s.csr.mcause
  | .mtval => if s.mtvalExists then s.csr.mtval else 0
  | .mip => s.mipRead
  | .mseccfg => s.mseccfgRead
  | .mseccfgh => highHalf s.mseccfgRead
  | .mhpmevent n high => halfOf high (s.hpmeventValue n)
  | .pmpcfg n => s.pmpcfgRead n
  | .pmpaddr n => s.pmpaddrRead n
  | .counter n high => halfOf high (s.counterValue n)
  | .shadow n high => halfOf high (s.counterValue n)
  | .sstatus => s.sstatusRead
  | .sie => s.mieRead &&& s.midelegEff
  | .stvec => s.sup.stvec
  | .scounteren => s.sup.scounteren.setWidth 64
  | .sepc => s.epcMasked s.sup.sepc
  | .scause => s.sup.scause
  | .stval => s.sup.stval
  | .sip => s.mipRead &&& s.midelegEff
  | .stimecmp => s.sup.stimecmp
  | .stimecmph => highHalf s.sup.stimecmp
  | .satp => s.sup.satp &&& satpBits s.sxlen
  | .seed => lowHalf (Config.seedValue s.ctr)
  | .mnepc => s.epcMasked s.rnmi.mnepc
  | .mncause => s.rnmi.mncause
  | .mnstatus => s.mnstatusRead
  | .fflags => s.units.fcsr.setWidth 64 &&& 0x1F
  | .frm => s.units.fcsr.setWidth 64 >>> 5
  | .fcsr => s.units.fcsr.setWidth 64
  | .vstart => s.units.vstart
  | .vxsat => flag s.units.vxsat 0
  | .vxrm => pair s.units.vxrm 0
  | .vcsr => flag s.units.vxsat 0 ||| pair s.units.vxrm 1
  | .vl => s.units.vl
  | .vtype => s.units.vtype
  | .vlenb => s.cfg.vlenb
  | .senvcfg => s.senvcfgRead
  | .custom a => s.customCsrRead a

/-- The value an instruction obtains for `rd`: XLEN bits (40_csr_access.md R366, R384). -/
def State.csrValue (s : State) (n : CsrName) : Word := narrow s.xlen (s.csrRead n)

/-- The old value of the read-modify-write: `mip` and `sip` with `seip_sw` alone in bit 9 (40_csr_access.md R372). -/
def State.csrRmw (s : State) : CsrName → Word
  | .mip => narrow s.xlen s.mipRmw
  | .sip => narrow s.xlen (s.mipRmw &&& s.midelegEff)
  | n => s.csrValue n

end Sys2Proof.Machine
end

