-- ==== Sys2Proof/Machine/CsrWrite.lean ====
section
/-! DEFINITION. `csr_write` (40_csr_access.md R367): what a write of every register of the map stores. The written value
is XLEN bits, zero-extended. -/

namespace Sys2Proof.Machine

/-! ### Legalisers -/

/-- The legaliser of `mcounteren` (11_state_trap_csrs.md R134; log entry 32). -/
def State.legalizeMcounteren (s : State) (w : Word) : BitVec 32 :=
  (warlMasked s.cfg .mcounteren (s.cfg.mcounterenWmask.setWidth 64) (s.csr.mcounteren.setWidth 64) w).setWidth 32

/-- The legaliser of `mcountinhibit`; bit 1 is no field (11_state_trap_csrs.md R137; log entry 32). -/
def State.legalizeMcountinhibit (s : State) (w : Word) : BitVec 32 :=
  (warlMasked s.cfg .mcountinhibit ((s.cfg.mcountinhibitWmask &&& ~~~2#32).setWidth 64) (s.csr.mcountinhibit.setWidth 64)
    w).setWidth 32

/-- REF's `legalize_mtvec`: any BASE, a reserved MODE keeps the old one (92_eei_decisions.md D11). -/
def tvecLegal (old w : Word) : Word :=
  (w &&& ~~~3#64) ||| (if w.getLsbD 1 then old &&& 1#64 else w &&& 1#64)

/-- The legaliser of a vector register, which holds its reset value (11_state_trap_csrs.md R104; log entry 32). -/
def legalizeTvec (c : Cfg) (f : WarlField) (reset old w : Word) : Word :=
  warlChoice c f (fun v => v == reset) (fun v => narrow c.mxlen (tvecLegal old v)) old w

/-! ### `menvcfg` and `mseccfg` -/

/-- A two-bit field of a value; a reserved encoding keeps the old field. -/
def pairBut (bad old : BitVec 2) (w : Word) (i : Nat) : BitVec 2 := if pairAt w i = bad then old else pairAt w i

/-- The fields of `menvcfg` that a value asks for; reserved encodings of CBIE and PMM keep the old field
(12_state_config_pmp_mmio.md R170 to R187, 93_implementation_defined.md A.2). -/
def Menvcfg.asked (c : Cfg) (o : Menvcfg) (w : Word) : Menvcfg :=
  Menvcfg.present c
    { fiom := w.getLsbD 0
      lpe := w.getLsbD 2
      sse := w.getLsbD 3
      cbie := pairBut 2 o.cbie w 4
      cbcfe := w.getLsbD 6
      cbze := w.getLsbD 7
      pmm := pairBut 1 o.pmm w 32
      dte := w.getLsbD 59
      cde := w.getLsbD 60
      adue := w.getLsbD 61
      pbmte := w.getLsbD 62
      stce := w.getLsbD 63 }

/-- A write of the masked bits of `menvcfg` (12_state_config_pmp_mmio.md R170 to R187; log entry 32). `CDE` has no effect
beyond the field: what it delegates is Smcdeleg's and Ssccfg's (R176; log entry 47). -/
def State.menvcfgWrite (s : State) (mask w : Word) : Menvcfg :=
  let o := s.csr.menvcfg.present s.cfg
  let cut (v : Word) : Word := (o.asked s.cfg (withBits mask o.word v)).word
  o.asked s.cfg (warlChoice s.cfg .menvcfg (fun v => v == 0) cut o.word (cut w))

/-- The fields of `mseccfg` that a value asks for: RLB stays 0 while an entry is locked, the reserved encoding of PMM keeps
the old field (12_state_config_pmp_mmio.md R190 to R202). -/
def State.mseccfgAsked (s : State) (o : Mseccfg) (w : Word) : Mseccfg :=
  Mseccfg.present s.cfg
    { mml := o.mml || w.getLsbD 0
      mmwp := o.mmwp || w.getLsbD 1
      rlb := if !o.rlb && s.anyPmpLock then false else w.getLsbD 2
      useed := w.getLsbD 8
      sseed := w.getLsbD 9
      mlpe := w.getLsbD 10
      pmm := pairBut 1 o.pmm w 32 }

/-- `mseccfg` after reset, as a value. -/
def mseccfgResetWord (c : Cfg) : Word := ((Csrs.resetFor c).mseccfg.present c).word

/-- A write of the masked bits of `mseccfg`: MML and MMWP are sticky and take what is written, whatever the legaliser of the
other fields is (12_state_config_pmp_mmio.md R190 to R202; log entry 32). -/
def State.mseccfgWrite (s : State) (mask w : Word) : Mseccfg :=
  let o := s.csr.mseccfg.present s.cfg
  let locks (v : Word) : Word := withBits 3 v (mask &&& w)
  let cut (v : Word) : Word := (s.mseccfgAsked o (withBits mask o.word (locks v))).word
  s.mseccfgAsked o (locks (warlChoice s.cfg .mseccfg (fun v => v == mseccfgResetWord s.cfg) cut o.word (cut w)))

/-! ### `misa` -/

/-- The letters that software can change (10_state.md R33, R34). -/
def State.misaMask (s : State) : BitVec 26 := s.cfg.misaWmask &&& misaLetters &&& ~~~0x10#26

/-- A bit cleared unless a condition holds. -/
def keepIf (v : BitVec 26) (i : Nat) (b : Bool) : BitVec 26 := if b then v else v &&& ~~~(1#26 <<< i)

/-- The new `Extensions` with D depending on F and S on U (10_state.md R35). Where D or S is set and not writable it is cleared
with F or U too, and stays so: R35 speaks of writable bits (DESIGN CHOICE, log entry 51). -/
def State.misaLegal (s : State) (w : BitVec 26) : BitVec 26 :=
  let v := (s.csr.misa &&& ~~~s.misaMask) ||| (w &&& s.misaMask)
  misaView (keepIf (keepIf v 3 (v.getLsbD 5)) 18 (v.getLsbD 20))

/-- A bit of `misa` given a value. -/
def putBit (v : BitVec 26) (i : Nat) (b : Bool) : BitVec 26 :=
  (v &&& ~~~(1#26 <<< i)) ||| ((BitVec.ofBool b).setWidth 26 <<< i)

/-- Whatever else a legaliser does with a written value, the feature at bit x is enabled just if the value enables it and
the one at bit y that it depends on, and asking for x without y disables both (10_state.md R35). -/
def dependency (x y : Nat) (asked legal r : BitVec 26) : BitVec 26 :=
  let on := legal.getLsbD x
  putBit (putBit r x on) y (on || (r.getLsbD y && !(asked.getLsbD x && !asked.getLsbD y)))

/-- A combination that an implementation supports: it is closed under the dependencies, and it is the one after reset or
legal to the implementation (10_state.md R36). -/
def State.misaSupported (s : State) (v : BitVec 26) : Bool :=
  s.misaLegal v == v && (v == misaView s.cfg.misaReset || Config.warlLegal .misa (v.setWidth 64))

/-- `legalize_misa` (10_state.md R35, R36; log entry 32): an implementation stores what R35 makes of the written value if it
supports that, else some combination that it supports and R35 allows; R35 and R36 together oblige it to have one. -/
def State.legalizeMisa (s : State) (w : BitVec 26) : BitVec 26 :=
  let asked := (s.csr.misa &&& ~~~s.misaMask) ||| (w &&& s.misaMask)
  let legal := s.misaLegal w
  let fit (r : BitVec 26) : BitVec 26 := misaView (dependency 18 20 asked legal (dependency 3 5 asked legal (s.misaLegal r)))
  let other := fit ((Config.warl .misa (s.csr.misa.setWidth 64) (w.setWidth 64)).setWidth 26)
  match s.cfg.kind .misa with
  | .ref => legal
  | .readOnly => s.csr.misa
  | .impl => ([legal, other, fit s.csr.misa].find? s.misaSupported).getD legal

/-- A write that would raise IALIGN under an unaligned next instruction is suppressed (10_state.md R38); for a custom instruction
that goes elsewhere see `State.customRetire`. -/
def State.misaSuppressed (s : State) (v : BitVec 26) : Bool :=
  s.extC && !v.getLsbD 2 && (s.pc + 4).getLsbD 1

/-- A field of two free bits. -/
def freePair (n ctr : Nat) : BitVec 2 := pairAt (Config.reenabled n ctr) 0

/-- A free bit. -/
def freeBit (n ctr : Nat) : Bool := (Config.reenabled n ctr).getLsbD 0

/-- A field of two free bits that is never one reserved value (12_state_config_pmp_mmio.md R182, R183). -/
def freePairBut (bad : BitVec 2) (n ctr : Nat) : BitVec 2 := if freePair n ctr = bad then 0 else freePair n ctr

/-- `FS` where it exists again: any legal status; unchanged where S-mode has kept it (10_state.md R39, R63). -/
def State.reenabledFs (s : State) (n : Nat) : BitVec 2 :=
  if s.fsExists then s.csr.mstatus.fs else legalizeContext s.cfg.fsKind true (freePair n s.ctr)

/-- `VS`, likewise (10_state.md R39, R64). -/
def State.reenabledVs (s : State) (n : Nat) : BitVec 2 :=
  if s.vsExists then s.csr.mstatus.vs else legalizeContext s.cfg.vsKind true (freePair n s.ctr)

/-- The fields of `mstatus` that only S-mode has, and those of FS and VS where only S-mode makes them exist
(10_state.md R39, R63, R64). -/
def State.reenabledStatusS (s : State) : Mstatus :=
  let m := s.csr.mstatus
  { m with
    sie := freeBit 0 s.ctr
    spie := freeBit 1 s.ctr
    spp := freeBit 2 s.ctr
    mxr := freeBit 3 s.ctr
    tvm := warlBit s.cfg .tvm m.tvm (freeBit 4 s.ctr)
    tsr := warlBit s.cfg .tsr m.tsr (freeBit 5 s.ctr)
    sbe := freeBit 40 s.ctr
    sxl := legalizeXl s.cfg .sxl s.cfg.sxlKind true m.sxl (freePair 41 s.ctr)
    spelp := freeBit 42 s.ctr
    sdt := freeBit 43 s.ctr
    fs := s.reenabledFs 44
    vs := s.reenabledVs 45 }

/-- The supervisor registers with any legal values (10_state.md R39); the mode of `satp` reads as Bare. -/
def State.reenabledSup (s : State) : Supervisor :=
  let f := fun n => narrow s.cfg.mxlen (Config.reenabled n s.ctr)
  { stvec := legalizeTvec s.cfg .stvec 0 s.sup.stvec (f 11)
    sepc := s.legalizeEpc (f 12)
    scause := f 13
    stval := f 14
    scounteren := (f 15).setWidth 32
    satp := f 46
    stimecmp := Config.reenabled 16 s.ctr
    senvcfg :=
      { fiom := freeBit 47 s.ctr, lpe := freeBit 48 s.ctr, sse := freeBit 49 s.ctr, cbie := freePairBut 2 50 s.ctr
        cbcfe := freeBit 51 s.ctr, cbze := freeBit 52 s.ctr, pmm := freePairBut 1 53 s.ctr } }

/-- S-mode enabled again: all state that only S-mode has is UNSPECIFIED and legal (10_state.md R39; log entry 10). -/
def State.reenableS (s : State) : State :=
  let c := { s.csr with
    mstatus := s.reenabledStatusS
    medeleg := Config.reenabled 6 s.ctr &&& s.medelegMask
    mideleg := narrow s.cfg.mxlen (Config.reenabled 7 s.ctr) &&& s.cfg.midelegWmask
    mie := withBits 0x222 s.csr.mie (Config.reenabled 54 s.ctr)
    ssip := freeBit 8 s.ctr
    stip := freeBit 9 s.ctr
    seipSw := freeBit 10 s.ctr
    mseccfg := { s.csr.mseccfg with sseed := (s.mseccfgWrite (flag true 9) (flag (freeBit 55 s.ctr) 9)).sseed } }
  (s.setCsr c).setSup s.reenabledSup

/-- U-mode enabled again: all state that only U-mode has is UNSPECIFIED and legal (10_state.md R39; log entry 10). -/
def State.reenableU (s : State) : State :=
  let m := s.csr.mstatus
  s.setCsr { s.csr with
    mstatus := { m with
      mprv := freeBit 20 s.ctr
      tw := warlBit s.cfg .tw m.tw (freeBit 21 s.ctr)
      ube := freeBit 65 s.ctr
      uxl := legalizeXl s.cfg .uxl s.cfg.uxlKind true m.uxl (freePair 66 s.ctr) }
    mcounteren := s.legalizeMcounteren (Config.reenabled 22 s.ctr)
    menvcfg := s.menvcfgWrite (lowMask .x64) (Config.reenabled 23 s.ctr)
    mseccfg := { s.csr.mseccfg with useed := (s.mseccfgWrite (flag true 8) (flag (freeBit 67 s.ctr) 8)).useed } }

/-- F enabled again: `fcsr` is UNSPECIFIED (10_state.md R39). -/
def State.reenableF (s : State) : State :=
  (s.setUnits { s.units with fcsr := (Config.reenabled 30 s.ctr).setWidth 8 }).setMstatus
    { s.csr.mstatus with fs := s.reenabledFs 68 }

/-- V enabled again (10_state.md R39). -/
def State.reenableV (s : State) : State :=
  (s.setUnits { s.units with vstart := Config.reenabled 31 s.ctr, vxrm := freePair 32 s.ctr, vxsat := freeBit 33 s.ctr,
                             vl := Config.reenabled 34 s.ctr, vtype := Config.reenabled 35 s.ctr }).setMstatus
    { s.csr.mstatus with vs := s.reenabledVs 69 }

/-- A enabled again: whether a reservation is held, and on which addresses, is UNSPECIFIED (10_state.md R39). -/
def State.reenableA (s : State) : State :=
  s.setReservation (if freeBit 36 s.ctr then some (Config.reenabledReservation s.ctr) else none)

/-- I enabled again after E: the registers that only I has are UNSPECIFIED (10_state.md R21, R39). -/
def State.reenableI (s : State) : State :=
  s.setXs (Vector.ofFn (fun r : Fin 32 =>
    if 16 ≤ r.val then narrow s.cfg.mxlen (Config.reenabled (100 + r.val) s.ctr) else s.x[r]))

/-- A letter goes from clear to set. -/
def State.enables (s : State) (v : BitVec 26) (i : Nat) : Bool := v.getLsbD i && !s.csr.misa.getLsbD i

/-- The state of A where it is enabled again. -/
def State.againA (s : State) (v : BitVec 26) : State := if s.enables v 0 then s.reenableA else s

/-- The state of F where it is enabled again. -/
def State.againF (s : State) (v : BitVec 26) : State := if s.enables v 5 then s.reenableF else s

/-- The registers `x16` to `x31` where I is enabled again. -/
def State.againI (s : State) (v : BitVec 26) : State := if s.enables v 8 then s.reenableI else s

/-- The state of S-mode where it is enabled again. -/
def State.againS (s : State) (v : BitVec 26) : State := if s.enables v 18 then s.reenableS else s

/-- The state of U-mode where it is enabled again. -/
def State.againU (s : State) (v : BitVec 26) : State := if s.enables v 20 then s.reenableU else s

/-- The state of V where it is enabled again. -/
def State.againV (s : State) (v : BitVec 26) : State := if s.enables v 21 then s.reenableV else s

/-- The status of an additional extension belongs to a letter that is enabled again. -/
def State.statusAgain (s : State) (v : BitVec 26) (i : Nat) : Bool :=
  s.cfg.ext.otherWords.any (fun p => p.units.contains (.other i) && p.letter.any (s.enables v))

/-- The status of additional extensions where their letter is enabled again (10_state.md R39, R65). -/
def State.againX (s : State) (v : BitVec 26) : State :=
  s.setUnits { s.units with statuses := s.units.statuses.mapIdx (fun i old =>
    if s.statusAgain v i then legalizeContext s.cfg.xsKind true (freePair (200 + i) s.ctr) else old) }

/-- `misa` replaced, with the state of every extension that it enables again (10_state.md R39). -/
def State.setMisa (s : State) (v : BitVec 26) : State :=
  let t := ((((((s.againX v).againI v).againA v).againF v).againS v).againU v).againV v
  t.setCsr { t.csr with misa := v }

/-- A write of `misa` (10_state.md R31 to R39). -/
def State.writeMisa (s : State) (w : Word) : State :=
  if !s.cfg.misaImpl || s.misaSuppressed (s.legalizeMisa (w.setWidth 26)) then s
  else s.setMisa (s.legalizeMisa (w.setWidth 26))

/-! ### Trap registers -/

/-- The Interrupt bit of a cause register (11_state_trap_csrs.md R147). -/
def interruptBit (x : Xlen) : Word := sdBit x true

/-- A cause value that `mcause` is guaranteed to hold: a code of `MCAUSE_LEGAL`, or an interrupt that the hart has
(11_state_trap_csrs.md R147). -/
def State.causeSupported (s : State) (w : Word) : Bool :=
  let top := interruptBit s.cfg.mxlen
  let code := (w &&& ~~~top).toNat
  if w &&& top = 0 then s.cfg.mcauseLegal.getLsbD code else s.mieMask.getLsbD code

/-- `mcause` after a software write: the Interrupt bit and a supported code are held; what an unsupported code leaves is the
implementation's (11_state_trap_csrs.md R147, 92_eei_decisions.md D12; log entry 32). -/
def State.legalizeMcause (s : State) (old w : Word) : Word :=
  let v := match s.cfg.kind .mcause with
    | .ref => w
    | .readOnly => old
    | .impl => Config.warl .mcause old w
  if s.causeSupported w then w else narrow s.cfg.mxlen (withBits (interruptBit s.cfg.mxlen) v w)

/-- `mtval` after a software write: it holds 0, every valid address and what a trap has put there; which other values it holds
is the implementation's (93_implementation_defined.md A.2; DESIGN CHOICE, log entry 46). -/
def State.legalizeMtval (s : State) (old w : Word) : Word :=
  if w = 0 || validAddress s.cfg w then w
  else warlChoice s.cfg .mtval (fun v => v == 0 || validAddress s.cfg v || v == old) (narrow s.cfg.mxlen) old w

/-! ### Interrupt registers -/

/-- A write of the bits of `mip` that a mask selects (11_state_trap_csrs.md R118 to R120). The `STIP` that software wrote is
kept while `menvcfg.STCE` hides it and shows again when `STCE` returns to 0 (DESIGN CHOICE, log entry 50). -/
def State.writeMipBits (s : State) (mask w : Word) : State :=
  let one (i : Nat) (can old : Bool) : Bool := if can && mask.getLsbD i then w.getLsbD i else old
  let m := mask &&& s.platWritable
  s.setCsr { s.csr with
    seipSw := one 9 s.hasS s.csr.seipSw
    stip := one 5 (s.hasS && !s.envcfg.stce) s.csr.stip
    ssip := one 1 s.hasS s.csr.ssip
    lcofip := one 13 s.cfg.ext.sscofpmf s.csr.lcofip
    platSw := (s.csr.platSw &&& ~~~m) ||| (w &&& m) }

/-- The bits of `sip` that software can write: SSIP and LCOFIP where delegated (PRESUMED, log entry 14). -/
def State.sipMask (s : State) : Word := s.midelegEff &&& (flag true 1 ||| flag true 13)

/-! ### Counters and event selectors -/

/-- A write of a 64-bit register through its whole or, with a 32-bit XLEN, through one half (11_state_trap_csrs.md R131). -/
def writePart (x : Xlen) (high : Bool) (old w : Word) : Word :=
  if high then setHigh old w else writeLow x old w

/-- A write of a 64-bit WARL register, or of one half of it, cut to the bits of a mask: the half that is not written does
not change (11_state_trap_csrs.md R129, R131; log entry 32). -/
def legalizePart (c : Cfg) (f : WarlField) (must : Word → Bool) (mask : Word) (high : Bool) (old w : Word) : Word :=
  warlChoice c f must (fun v => withBits (reachedBits c.mxlen high) old v &&& mask) old
    (writePart c.mxlen high old w &&& mask)

/-- A write of a counter or of one half of it (11_state_trap_csrs.md R125 to R131). -/
def State.writeCounter (s : State) (n : Nat) (high : Bool) (w : Word) : State :=
  if n = 0 then s.setCnt { s.cnt with mcycle := writePart s.cfg.mxlen high s.cnt.mcycle w }
  else if n = 2 then s.setCnt { s.cnt with minstret := writePart s.cfg.mxlen high s.cnt.minstret w }
  else if s.cfg.hpmImpl.getLsbD n then
    let old := s.counterValue n
    s.setCnt { s.cnt with hpmcounter := s.cnt.hpmcounter.setIfInBounds (n - 3)
                            (legalizePart s.cfg .mhpmcounter (fun _ => true) s.cfg.mhpmcounterWmask high old w) }
  else s

/-- An event selector holds its reset value 0, and with any value `OF` set or clear, which counting sets
(11_state_trap_csrs.md R129, R130). -/
def State.eventHeld (s : State) (v : Word) : Bool :=
  let selected := v &&& ~~~flag s.cfg.ext.sscofpmf 63
  selected == 0 || Config.warlLegal .mhpmevent selected

/-- A write of an event selector; an `OF` that becomes set requests LCOFI (11_state_trap_csrs.md R120, R129,
60_exceptions.md R460; log entry 16). -/
def State.writeHpmevent (s : State) (n : Nat) (high : Bool) (w : Word) : State :=
  if s.cfg.hpmImpl.getLsbD n then
    let old := s.hpmeventValue n
    let new := legalizePart s.cfg .mhpmevent s.eventHeld s.hpmeventMask high old w
    let t := s.setCnt { s.cnt with hpmevent := s.cnt.hpmevent.setIfInBounds (n - 3) new }
    if s.cfg.ext.sscofpmf && new.getLsbD 63 && !old.getLsbD 63 then t.setCsr { t.csr with lcofip := true } else t
  else s

/-- The counter that a write of a register replaces, which does not count the writing instruction (11_state_trap_csrs.md R128).
Where an RV32 write addresses one half, the whole 64-bit counter does not count it, so that the other half keeps its value and
takes no carry: 40_csr_access.md R367 speaks of the addressed half alone, 11_state_trap_csrs.md R131 says that the write changes
only its half and not whether the other counts (DESIGN CHOICE, log entry 56). -/
def counterWritten : CsrName → Option CounterSel
  | .counter n _ => if n = 0 then some .cycle else if n = 2 then some .instret else some (.hpm (n - 3))
  | _ => none

/-! ### `ELP` and `senvcfg` -/

/-- Where a write of `mseccfg` leaves landing pads not enabled in the current mode, `ELP` is NO_LP_EXPECTED
(12_state_config_pmp_mmio.md R202). -/
def State.settleElp (s : State) : State :=
  if s.cfg.ext.zicfilp && !s.landingPads s.priv then s.setElp false else s

/-- A write of `senvcfg`; reserved encodings of CBIE and PMM keep the old field, `SSE` is not written while `menvcfg.SSE` is 0
(12_state_config_pmp_mmio.md R185; the rest PRESUMED, log entry 44), and what it held shows again when that returns to 1
(DESIGN CHOICE, log entry 44). A field outside the mask is kept: a write under a 32-bit XLEN leaves PMM, bits 33:32, as it is
(DESIGN CHOICE, log entry 57). -/
def State.senvcfgWrite (s : State) (mask w : Word) : Senvcfg :=
  let o := s.sup.senvcfg
  let one (i : Nat) (old : Bool) : Bool := if mask.getLsbD i then w.getLsbD i else old
  let two (i : Nat) (bad old : BitVec 2) : BitVec 2 :=
    if mask.getLsbD i && pairAt w i != bad then pairAt w i else old
  { fiom := one 0 o.fiom
    lpe := one 2 o.lpe
    sse := if s.envcfg.sse then one 3 o.sse else o.sse
    cbie := two 4 2 o.cbie
    cbcfe := one 6 o.cbcfe
    cbze := one 7 o.cbze
    pmm := two 32 1 o.pmm }

/-! ### The status of additional extensions (10_state.md R65) -/

/-- The status fields of additional extensions after some of them are given values. -/
def putStatuses (k : ContextKind) : List (Nat × BitVec 2) → List (BitVec 2) → List (BitVec 2)
  | [], l => l
  | (i, v) :: r, l => putStatuses k r (l.set i (legalizeContext k true v))

/-- Additional extensions take a status, which `XS` summarises (10_state.md R65). -/
def State.takeStatuses (s : State) (l : List (Nat × BitVec 2)) : State :=
  s.setUnits { s.units with statuses := putStatuses s.cfg.xsKind l s.units.statuses }

/-- A write of a custom CSR: the register with the status field gives its extension the written status, one that holds
state of its extension makes it Dirty (10_state.md R65, R68; log entries 19, 40). -/
def State.customCsrWrite (s : State) (a : BitVec 12) (w : Word) : State :=
  match customCsrAt s.cfg a with
  | some { extension := some i, statusAt := some p, .. } => s.takeStatuses [(i, pairAt w p)]
  | some { extension := some i, statusAt := none, .. } => s.takeStatuses [(i, 3)]
  | _ => s

/-! ### Floating-point and vector control registers (log entry 15) -/

/-- The context field after a write of the unit's state: Dirty if it changes it, else as the implementation chooses
(10_state.md R68, R69). -/
def State.contextAfterWrite (s : State) (old : BitVec 2) (changed : Bool) : BitVec 2 :=
  if changed || old == 3 || Config.dirtyChoice s.ctr then 3 else old

/-- The context field after a read of the unit's state: unchanged, or as imprecise tracking chooses (10_state.md R68,
R69). Only an instruction that accesses a unit's state makes its field Dirty in the model: errant speculation, and under
imprecise tracking an instruction that does not access the unit, never do, though R69 lets them (93_implementation_defined.md
U6; DESIGN CHOICE, log entry 15). -/
def State.contextAfterRead (s : State) (k : ContextKind) (old : BitVec 2) : BitVec 2 :=
  if k == .imprecise && Config.dirtyChoice s.ctr then 3 else old

/-- A write of the units' registers that belong to F. -/
def State.writeF (s : State) (fcsr : BitVec 8) : State :=
  let m := s.csr.mstatus
  (s.setUnits { s.units with fcsr := fcsr }).setMstatus
    { m with fs := s.contextAfterWrite m.fs (fcsr != s.units.fcsr) }

/-- A write of the units' registers that belong to V. -/
def State.writeV (s : State) (u : Units) : State :=
  let m := s.csr.mstatus
  (s.setUnits u).setMstatus { m with vs := s.contextAfterWrite m.vs (u != s.units) }

/-- The status of an additional extension after a read of a custom CSR that holds its state (10_state.md R68, R69). -/
def State.customCsrNote (s : State) (a : BitVec 12) : State :=
  match customCsrAt s.cfg a with
  | some { extension := some i, statusAt := none, .. } =>
    s.takeStatuses [(i, s.contextAfterRead s.cfg.xsKind ((s.units.statuses[i]?).getD 0))]
  | _ => s

/-- The context fields after a read of a unit's or an extension's register. -/
def State.noteRead (s : State) : CsrName → State
  | .fflags | .frm | .fcsr =>
    let m := s.csr.mstatus
    s.setMstatus { m with fs := s.contextAfterRead s.cfg.fsKind m.fs }
  | .vstart | .vxsat | .vxrm | .vcsr | .vl | .vtype | .vlenb =>
    let m := s.csr.mstatus
    s.setMstatus { m with vs := s.contextAfterRead s.cfg.vsKind m.vs }
  | .custom a => s.customCsrNote a
  | _ => s

/-! ### The status of units by Table 4 (10_state.md R68) -/

/-- What kind of tracking a unit's status field has. -/
def unitKind (c : Cfg) : StateUnit → ContextKind
  | .float => c.fsKind
  | .vector => c.vsKind
  | .other _ => c.xsKind

/-- The status of a unit. -/
def State.unitStatus (s : State) : StateUnit → BitVec 2
  | .float => s.csr.mstatus.fs
  | .vector => s.csr.mstatus.vs
  | .other i => (s.units.statuses[i]?).getD 0

/-- A unit takes a status. -/
def State.setUnitStatus (s : State) (u : StateUnit) (v : BitVec 2) : State :=
  let m := s.csr.mstatus
  match u with
  | .float => s.setMstatus { m with fs := legalizeContext s.cfg.fsKind true v }
  | .vector => s.setMstatus { m with vs := legalizeContext s.cfg.vsKind true v }
  | .other i => s.takeStatuses [(i, v)]

/-- A unit's status after an instruction acts on the unit: the rows "next state" of Table 4 (10_state.md R68, R69). -/
def State.unitStep (s : State) (p : StateUnit × UnitAction) : State :=
  s.setUnitStatus p.1 (match p.2 with
    | .read => s.contextAfterRead (unitKind s.cfg p.1) (s.unitStatus p.1)
    | .modify => 3
    | .unconfigure => 1
    | .disable => 0
    | .enable => 1)

/-- The status of units after an instruction acts on them one after the other. -/
def State.unitSteps (s : State) : List (StateUnit × UnitAction) → State
  | [] => s
  | p :: rest => (s.unitStep p).unitSteps rest

/-- An action on a unit raises no exception: column "from Off" of Table 4 (10_state.md R67, R68). -/
def State.unitReady (s : State) (p : StateUnit × UnitAction) : Bool :=
  p.2 == .disable || p.2 == .enable || s.unitOn p.1

/-! ### The write of a register -/

/-- `csr_write` (40_csr_access.md R367). A register whose address marks it read-only is not written. A mode that is not
implemented keeps the old `mnstatus.MNPP` (DESIGN CHOICE, 91_not_in_source.md N27; log entry 13). Where M-mode is wider than
S-mode (SXLEN=32 under MXLEN=64) its write of `sstatus` and of `satp` is one in S-mode's layout, so that a `satp` value with any
of bits 63:31 set is dropped, while `stvec`, `sepc`, `scause`, `stval` and `stimecmp` take all 64 bits: 40_csr_access.md R384
and 91_not_in_source.md N10 give no width (DESIGN CHOICE, log entry 53). What S-mode with SXLEN=32 under MXLEN=64 leaves above
bit 31 of a register that it writes, R384 does not say either: `senvcfg` keeps PMM there, `stimecmp` its upper half and `sstatus`
UXL, and every other register takes zeros (DESIGN CHOICE, log entry 57). -/
def State.csrWrite (s : State) (w : Word) : CsrName → State
  | .mvendorid | .marchid | .mimpid | .mhartid | .mconfigptr => s
  | .mstatus => s.setMstatus (s.statusWrite (lowMask s.cfg.mxlen) w)
  | .misa => s.writeMisa w
  | .medeleg => s.setCsr { s.csr with medeleg := writePart s.cfg.mxlen false s.csr.medeleg w &&& s.medelegMask }
  | .mideleg => s.setCsr { s.csr with mideleg := w &&& s.cfg.midelegWmask }
  | .mie => s.setCsr { s.csr with mie := w &&& s.mieMask }
  | .mtvec => s.setCsr { s.csr with mtvec := legalizeTvec s.cfg .mtvec (narrow s.cfg.mxlen s.cfg.mtvecReset) s.csr.mtvec w }
  | .mcounteren => s.setCsr { s.csr with mcounteren := s.legalizeMcounteren w }
  | .menvcfg => s.setCsr { s.csr with menvcfg := s.menvcfgWrite (lowMask s.cfg.mxlen) w }
  | .mstatush => s.setMstatus (s.statusWrite highMask (w <<< 32))
  | .medelegh => s.setCsr { s.csr with medeleg := writePart s.cfg.mxlen true s.csr.medeleg w &&& s.medelegMask }
  | .menvcfgh => s.setCsr { s.csr with menvcfg := s.menvcfgWrite highMask (w <<< 32) }
  | .mcountinhibit => s.setCsr { s.csr with mcountinhibit := s.legalizeMcountinhibit w }
  | .mscratch => s.setCsr { s.csr with mscratch := w }
  | .mepc => s.setCsr { s.csr with mepc := s.legalizeEpc w }
  | .mcause => s.setCsr { s.csr with mcause := s.legalizeMcause s.csr.mcause w }
  | .mtval => if s.mtvalExists then s.setCsr { s.csr with mtval := s.legalizeMtval s.csr.mtval w } else s
  | .mip => s.writeMipBits (lowMask .x64) w
  | .mseccfg => (s.setCsr { s.csr with mseccfg := s.mseccfgWrite (lowMask s.cfg.mxlen) w }).settleElp
  | .mseccfgh => (s.setCsr { s.csr with mseccfg := s.mseccfgWrite highMask (w <<< 32) }).settleElp
  | .mhpmevent n high => s.writeHpmevent n high w
  | .pmpcfg n => s.pmpcfgWrite n w
  | .pmpaddr n => s.pmpaddrWrite n w
  | .counter n high => s.writeCounter n high w
  | .shadow _ _ => s
  | .sstatus => s.setMstatus (s.statusWrite (narrow s.sxlen sstatusMask) w)
  | .sie => s.setCsr { s.csr with mie := (s.mieRead &&& ~~~s.midelegEff) ||| (w &&& s.midelegEff &&& s.mieMask) }
  | .stvec => s.setSup { s.sup with stvec := legalizeTvec s.cfg .stvec 0 s.sup.stvec w }
  | .scounteren => s.setSup { s.sup with scounteren := w.setWidth 32 }
  | .sepc => s.setSup { s.sup with sepc := s.legalizeEpc w }
  | .scause => s.setSup { s.sup with scause := w }
  | .stval => s.setSup { s.sup with stval := w }
  | .sip => s.writeMipBits s.sipMask w
  | .stimecmp => s.setSup { s.sup with stimecmp := writeLow s.xlen s.sup.stimecmp w }
  | .stimecmph => s.setSup { s.sup with stimecmp := setHigh s.sup.stimecmp w }
  | .satp => if satpMode s.sxlen w = 0 then s.setSup { s.sup with satp := w } else s
  | .seed => s
  | .mnepc => s.setRnmi { s.rnmi with mnepc := clearEpcLow s.cfg w }
  | .mncause => s.setRnmi { s.rnmi with mncause := w }
  | .mnstatus => s.setRnmi { s.rnmi with nmie := s.rnmi.nmie || w.getLsbD 3, mnpp := s.mppOf s.rnmi.mnpp (pairAt w 11) }
  | .fflags => s.writeF (s.units.fcsr &&& 0xE0 ||| (w.setWidth 8 &&& 0x1F))
  | .frm => s.writeF (s.units.fcsr &&& 0x1F ||| (w.setWidth 8 <<< 5))
  | .fcsr => s.writeF (w.setWidth 8)
  | .vstart => s.writeV { s.units with vstart := w }
  | .vxsat => s.writeV { s.units with vxsat := w.getLsbD 0 }
  | .vxrm => s.writeV { s.units with vxrm := pairAt w 0 }
  | .vcsr => s.writeV { s.units with vxsat := w.getLsbD 0, vxrm := pairAt w 1 }
  | .vl | .vtype | .vlenb => s
  | .senvcfg => s.setSup { s.sup with senvcfg := s.senvcfgWrite (lowMask s.xlen) w }
  | .custom a => s.customCsrWrite a w

/-! ### The instruction -/

/-- Step 5 of 40_csr_access.md R371: a read leaves the state alone, the context fields apart. -/
def State.csrAfterRead (s : State) (u : CsrUse) (n : CsrName) : State := if u.reads then s.noteRead n else s

/-- Step 7 of 40_csr_access.md R371: the new value is computed from the state before the instruction (R372). -/
def State.csrAfterWrite (s : State) (u : CsrUse) (n : CsrName) (t : State) : State :=
  if u.writes then t.csrWrite (narrow s.xlen (u.op.apply (s.csrRmw n) u.operand)) n else t

/-- The counter that this use writes, which it does not increment, in neither half (11_state_trap_csrs.md R128; DESIGN CHOICE
for the half that is not addressed, log entry 56). -/
def CsrUse.skips (u : CsrUse) (n : CsrName) : Option CounterSel := if u.writes then counterWritten n else none

/-- Steps 5 to 9 of 40_csr_access.md R371: the counters count, the write takes effect after that
(11_state_trap_csrs.md R128), then `rd` and `pc` are written. So what the counting of this very instruction sets in `mip` or
`mhpmevent` is overwritten by its write of that register: R371 and D24 leave it open (DESIGN CHOICE, log entry 16). -/
def State.csrPerform (s : State) (u : CsrUse) (n : CsrName) : State :=
  let t := s.csrAfterWrite u n ((s.countRetired (u.skips n)).csrAfterRead u n)
  ((if u.reads then t.writeX s.xlen u.rd (s.csrValue n) else t).setPc
    (widen s.cfg.mxlen s.xlen (s.pc + 4)))

/-- A CSR instruction, word w: performed if its checks pass, else illegal (40_csr_access.md R371). -/
def State.csrInstr (s : State) (u : CsrUse) (w : BitVec 32) : State :=
  match s.csrAt u.csr with
  | none => s.illegal w
  | some n => if s.csrAllowed n u.csr u.writes then s.csrPerform u n else s.illegal w

end Sys2Proof.Machine
end

