-- ==== Sys2Proof/Machine/CsrInstr.lean ====
section
/-! DEFINITION. The six CSR instructions (40_csr_access.md R376 to R381). -/

namespace Sys2Proof.Machine

/-- A meaning for a well-formed instruction; a reserved encoding is illegal (30_encoding.md R345). -/
def State.unlessReserved (s : State) (i : Instr) (t : State) : State :=
  if i.wellFormed s.features then t else s.illegal (encode i)

/-- CSRRW (40_csr_access.md R376). -/
def execCsrrw (rd rs1 : BitVec 5) (csr : BitVec 12) (s : State) : Host.Outcome State Fault Refusal :=
  .next (s.unlessReserved (.csrrw rd rs1 csr) (s.csrInstr (s.registerUse .write rd rs1 csr) (encode (.csrrw rd rs1 csr))))

/-- CSRRS (40_csr_access.md R377). -/
def execCsrrs (rd rs1 : BitVec 5) (csr : BitVec 12) (s : State) : Host.Outcome State Fault Refusal :=
  .next (s.unlessReserved (.csrrs rd rs1 csr) (s.csrInstr (s.registerUse .set rd rs1 csr) (encode (.csrrs rd rs1 csr))))

/-- CSRRC (40_csr_access.md R378). -/
def execCsrrc (rd rs1 : BitVec 5) (csr : BitVec 12) (s : State) : Host.Outcome State Fault Refusal :=
  .next (s.unlessReserved (.csrrc rd rs1 csr) (s.csrInstr (s.registerUse .clear rd rs1 csr) (encode (.csrrc rd rs1 csr))))

/-- CSRRWI (40_csr_access.md R379). -/
def execCsrrwi (rd uimm : BitVec 5) (csr : BitVec 12) (s : State) : Host.Outcome State Fault Refusal :=
  .next (s.unlessReserved (.csrrwi rd uimm csr) (s.csrInstr (immediateUse .write rd uimm csr) (encode (.csrrwi rd uimm csr))))

/-- CSRRSI (40_csr_access.md R380). -/
def execCsrrsi (rd uimm : BitVec 5) (csr : BitVec 12) (s : State) : Host.Outcome State Fault Refusal :=
  .next (s.unlessReserved (.csrrsi rd uimm csr) (s.csrInstr (immediateUse .set rd uimm csr) (encode (.csrrsi rd uimm csr))))

/-- CSRRCI (40_csr_access.md R381). -/
def execCsrrci (rd uimm : BitVec 5) (csr : BitVec 12) (s : State) : Host.Outcome State Fault Refusal :=
  .next (s.unlessReserved (.csrrci rd uimm csr) (s.csrInstr (immediateUse .clear rd uimm csr) (encode (.csrrci rd uimm csr))))

end Sys2Proof.Machine
end

