-- ==== Sys2Proof/Machine/Fence.lean ====
section
/-! DEFINITION. The fences as the machine level sees them (44_custom_and_fences.md R434 to R436). -/

namespace Sys2Proof.Machine

/-- The checks of SFENCE.VMA and SINVAL.VMA: illegal in U-mode, and in S-mode with `TVM` set (44_custom_and_fences.md
R434). -/
def State.fenceVmaIllegal (s : State) : Bool :=
  match s.priv with
  | .u => true
  | .s => s.status.tvm
  | .m => false

/-- SFENCE.VMA: its checks, then no architectural state changes (44_custom_and_fences.md R434). -/
def execSfenceVma (rs1 rs2 : BitVec 5) (s : State) : Host.Outcome State Fault Refusal :=
  .next (s.unlessReserved (.sfenceVma rs1 rs2)
    (if s.fenceVmaIllegal then s.illegal (encode (.sfenceVma rs1 rs2)) else s.retire 4))

/-- SINVAL.VMA: the same checks (44_custom_and_fences.md R435). -/
def execSinvalVma (rs1 rs2 : BitVec 5) (s : State) : Host.Outcome State Fault Refusal :=
  .next (s.unlessReserved (.sinvalVma rs1 rs2)
    (if s.fenceVmaIllegal then s.illegal (encode (.sinvalVma rs1 rs2)) else s.retire 4))

/-- The ordering bits of a FENCE's predecessor or successor set (12_state_config_pmp_mmio.md R172). -/
structure FenceSet where
  input : Bool
  output : Bool
  reads : Bool
  writes : Bool
deriving DecidableEq, Repr

/-- Table 8: device input implies reads, device output implies writes (44_custom_and_fences.md R436). -/
def FenceSet.widened (f : FenceSet) : FenceSet :=
  { f with reads := f.reads || f.input, writes := f.writes || f.output }

/-- The set as a FENCE executed now uses it (44_custom_and_fences.md R436). -/
def State.fenceSet (s : State) (f : FenceSet) : FenceSet :=
  if s.priv != .m && s.envcfg.fiom then f.widened else f

/-- The set of a four-bit field I O R W. -/
def fenceSetOf (v : BitVec 4) : FenceSet :=
  { input := v.getLsbD 3, output := v.getLsbD 2, reads := v.getLsbD 1, writes := v.getLsbD 0 }

/-- What a FENCE orders: nothing further, in a memory where every access is complete before the next instruction
(20_memory.md R290, R291, 92_eei_decisions.md D22). -/
def State.orderMemory (s : State) (_pred _succ : FenceSet) : State := s

/-- FENCE with its encoded sets (44_custom_and_fences.md R436). -/
def State.fence (s : State) (pred succ : FenceSet) : State :=
  (s.orderMemory (s.fenceSet pred) (s.fenceSet succ)).retire 4

/-- What an atomic instruction with `aq` or `rl` set is ordered on: device I/O, main memory. -/
structure AtomicOrder where
  io : Bool
  memory : Bool
deriving DecidableEq, Repr

/-- The ordering of an atomic instruction at an address, by its `aq` and `rl` bits: the kind of region it accesses, and in
modes below M with `menvcfg.FIOM` set, where that is device I/O, memory too (44_custom_and_fences.md R436; the hook of
30_encoding.md R349). -/
def State.atomicOrder (s : State) (a : Nat) (aq rl : Bool) : AtomicOrder :=
  let ordered := aq || rl
  let io := deviceOrdered s.cfg a
  { io := ordered && io
    memory := ordered && (!io || (s.priv != .m && s.envcfg.fiom)) }

end Sys2Proof.Machine
end

