-- ==== Sys2Proof/Machine/Base.lean ====
section
/-! DEFINITION. `baseExec`: RV32I, RV64I, RV32E and RV64E, which the spec takes as a parameter (10_state.md R23). All of
it is PRESUMED from Volume I (log entry 17); every other word of Volume I is illegal, or refused on a hart that has the
extension which defines it (log entry 18). -/

namespace Sys2Proof.Machine

/-! ### Immediates -/

/-- The I immediate. -/
def immI (w : BitVec 32) : Word := (w.extractLsb' 20 12).signExtend 64

/-- The S immediate. -/
def immS (w : BitVec 32) : Word := (w.extractLsb' 25 7 ++ w.extractLsb' 7 5).signExtend 64

/-- The B immediate. -/
def immB (w : BitVec 32) : Word :=
  (w.extractLsb' 31 1 ++ w.extractLsb' 7 1 ++ w.extractLsb' 25 6 ++ w.extractLsb' 8 4 ++ 0#1).signExtend 64

/-- The U immediate. -/
def immU (w : BitVec 32) : Word := (w.extractLsb' 12 20 ++ 0#12).signExtend 64

/-- The J immediate. -/
def immJ (w : BitVec 32) : Word :=
  (w.extractLsb' 31 1 ++ w.extractLsb' 12 8 ++ w.extractLsb' 20 1 ++ w.extractLsb' 21 10 ++ 0#1).signExtend 64

/-! ### Words of the other extensions
A word belongs to the extension whose encoding it is (PRESUMED from Volume I, log entry 18). Where that extension is absent
or its `misa` bit is clear the word is illegal (10_state.md R23 (b), R37; 30_encoding.md R334, R345), where it is present the
word is refused: its meaning is outside the source (93_implementation_defined.md A.3). -/

/-- A letter of `misa` that words need is on; without `misa` the configuration's words are there. -/
def State.letterOn (s : State) (l : Option Nat) : Bool := l.all (fun i => s.letter i true)

/-- An extension that no letter of the standard and no flag names defines the word, its `misa` letter is on, and no unit whose
state the word uses is Off (10_state.md R37, R67). -/
def State.otherDefines (s : State) (w : BitVec 32) : Bool :=
  s.cfg.ext.otherWords.any (fun p => p.fits w && s.letterOn p.letter && s.unitsOn p.units)

/-- The widths of an AMO word: 32 bits, and 64 where XLEN is 64. -/
def amoWidth (x : Xlen) (w : BitVec 32) : Bool := funct3Of w == 2 || (funct3Of w == 3 && x == .x64)

/-- The word is of the A extension: LR, SC, or one of its nine AMOs. -/
def wordOfA (x : Xlen) (w : BitVec 32) : Bool :=
  opcodeOf w == 0b0101111 && amoWidth x w &&
    ((w.extractLsb' 27 5 == 0b00010 && rs2Of w == 0) ||
      [0b00011#5, 0b00001#5, 0b00000#5, 0b00100#5, 0b01100#5, 0b01000#5, 0b10000#5, 0b10100#5, 0b11000#5,
        0b11100#5].contains (w.extractLsb' 27 5))

/-- SSAMOSWAP.W and SSAMOSWAP.D of Zicfiss. -/
def wordOfSsamoswap (x : Xlen) (w : BitVec 32) : Bool :=
  opcodeOf w == 0b0101111 && amoWidth x w && w.extractLsb' 27 5 == 0b01001

/-- The multiply and divide encodings of M. -/
def wordOfM (x : Xlen) (w : BitVec 32) : Bool :=
  funct7Of w == 1 &&
    (opcodeOf w == 0b0110011 || (opcodeOf w == 0b0111011 && x == .x64 && (funct3Of w == 0 || 4 ≤ (funct3Of w).toNat)))

/-- Some row of a table of function codes. -/
def hasRow (t : List (BitVec 3 × BitVec 12)) (f3 : BitVec 3) (code : BitVec 12) : Bool := t.contains (f3, code)

/-- The register forms of B in OP: of Zba, Zbb and Zbs. -/
def bitOps : List (BitVec 3 × BitVec 12) :=
  [(2, 0x10), (4, 0x10), (6, 0x10), (7, 0x20), (6, 0x20), (4, 0x20), (4, 5), (5, 5), (6, 5), (7, 5), (1, 0x30), (5, 0x30),
   (1, 0x24), (5, 0x24), (1, 0x34), (1, 0x14)]

/-- The register forms of B in OP-32, of RV64. -/
def bitOps32 : List (BitVec 3 × BitVec 12) := [(0, 4), (2, 0x10), (4, 0x10), (6, 0x10), (1, 0x30), (5, 0x30)]

/-- The forms of B in OP-IMM without a shift amount: counts, sign extensions, ORC.B. -/
def bitImms : List (BitVec 3 × BitVec 12) := [(1, 0x600), (1, 0x601), (1, 0x602), (1, 0x604), (1, 0x605), (5, 0x287)]

/-- The shift-immediate forms of B in OP-IMM, by bits 31:26: BCLRI, BINVI, BSETI, BEXTI, RORI. -/
def bitShifts : List (BitVec 3 × BitVec 12) := [(1, 0b010010), (1, 0b011010), (1, 0b001010), (5, 0b010010), (5, 0b011000)]

/-- The encodings of B, which is Zba, Zbb and Zbs. -/
def wordOfB (x : Xlen) (w : BitVec 32) : Bool :=
  let op := opcodeOf w
  let f3 := funct3Of w
  let f7 := (funct7Of w).setWidth 12
  let zextH := f3 == 4 && f7 == 4 && rs2Of w == 0
  (op == 0b0110011 && (hasRow bitOps f3 f7 || (x == .x32 && zextH))) ||
    (op == 0b0010011 && (hasRow bitImms f3 (csrOf w) ||
      (f3 == 5 && csrOf w == (match x with | .x32 => 0x698 | .x64 => 0x6B8)) ||
      (hasRow bitShifts f3 ((w.extractLsb' 26 6).setWidth 12) && (x == .x64 || !w.getLsbD 25)))) ||
    (x == .x64 && op == 0b0111011 && (hasRow bitOps32 f3 f7 || zextH)) ||
    (x == .x64 && op == 0b0011011 && (hasRow [(1, 0x600), (1, 0x601), (1, 0x602)] f3 (csrOf w) ||
      (f3 == 1 && w.extractLsb' 26 6 == 0b000010) || (f3 == 5 && f7 == 0x30)))

/-- The 32-bit instructions of Zicfiss but SSAMOSWAP: SSPUSH and SSPOPCHK of x1 and x5, and SSRDP. -/
def wordOfZicfiss (w : BitVec 32) : Bool :=
  w == 0xCE104073 || w == 0xCE504073 || w == 0xCDC0C073 || w == 0xCDC2C073 ||
    (w &&& 0xFFFFF07F == 0xCDC04073 && rdOf w != 0)

/-- The two 16-bit instructions of Zicfiss: C.SSPUSH of x1 and C.SSPOPCHK of x5. -/
def wordOfCompressedZicfiss (w : BitVec 32) : Bool := w == 0x6081 || w == 0x6281

/-- Zicfiss does not act in the current mode: below M-mode while `menvcfg.SSE` is 0 (12_state_config_pmp_mmio.md R185). -/
def State.zicfissOff (s : State) : Bool := s.priv != .m && !s.envcfg.sse

/-- An extension of the hart that the source does not give defines the word; floating-point, vector, compressed,
Zicfiss and cache-block words are told apart below. The all-zero word is of no extension (95_test_vectors.md V29a). -/
def State.definedOutside (s : State) (w : BitVec 32) : Bool :=
  w != 0 &&
    (s.otherDefines w || (s.extA && wordOfA s.xlen w) || (s.cfg.ext.zicfiss && wordOfSsamoswap s.xlen w) ||
      (s.extM && wordOfM s.xlen w) || (s.extB && wordOfB s.xlen w))

/-- A word that is no base instruction: illegal, or refused where an extension outside the source defines it
(30_encoding.md R345, 93_implementation_defined.md A.3; log entry 18). -/
def State.unknownWord (s : State) (w : BitVec 32) : Host.Outcome State Fault Refusal :=
  if s.definedOutside w then .refused (.unprivileged w) else .next (s.illegal w)

/-- A word of an extension that is on: refused if a condition on its state and enables holds, else unknown. -/
def State.outside (s : State) (w : BitVec 32) (defined : Bool) : Host.Outcome State Fault Refusal :=
  if defined then .refused (.unprivileged w) else s.unknownWord w

/-! ### Shared operations -/

/-- A value of XLEN bits as a signed one of 64. -/
def signed (x : Xlen) (v : Word) : Word := widen .x64 x v

/-- The instruction retires, writes `rd` and goes on (10_state.md R22, R53). -/
def State.finish (s : State) (r : BitVec 5) (v : Word) : State :=
  ((s.countRetired none).writeX s.xlen r v).jump (s.pc + 4)

/-- A control transfer to t, with the link written; a misaligned target raises, with the target zero-extended as the trap
value (log entry 21), and writes no link (10_state.md R23). -/
def State.transfer (s : State) (r : BitVec 5) (t : Word) : State :=
  let a := narrow s.xlen t
  if s.aligned a then ((s.countRetired none).writeX s.xlen r (s.pc + 4)).jump a else s.raise 0 a

/-! ### Integer operations -/

/-- The bits of a shift amount that count. -/
def shiftAmount (x : Xlen) (v : Word) : Nat := v.toNat % x.bits

/-- ADD, SLL, SLT, SLTU, XOR, SRL, OR, AND by funct3, on XLEN bits; `alt` selects SUB and SRA. -/
def intOp (x : Xlen) (f3 : BitVec 3) (alt : Bool) (a b : Word) : Word :=
  if f3 = 0 then (if alt then a - b else a + b)
  else if f3 = 1 then a <<< shiftAmount x b
  else if f3 = 2 then flag ((signed x a).slt (signed x b)) 0
  else if f3 = 3 then flag ((narrow x a).ult (narrow x b)) 0
  else if f3 = 4 then a ^^^ b
  else if f3 = 5 then
    (if alt then (signed x a).sshiftRight (shiftAmount x b) else narrow x a >>> shiftAmount x b)
  else if f3 = 6 then a ||| b
  else a &&& b

/-- The condition of a branch by funct3. -/
def branchTaken (x : Xlen) (f3 : BitVec 3) (a b : Word) : Bool :=
  if f3 = 0 then a == b
  else if f3 = 1 then a != b
  else if f3 = 4 then (signed x a).slt (signed x b)
  else if f3 = 5 then !(signed x a).slt (signed x b)
  else if f3 = 6 then a.ult b
  else !a.ult b

/-- The shift-immediate forms that exist: the upper bits are 0, or bit 30 alone for SRAI. -/
def shiftImmOk (x : Xlen) (f3 : BitVec 3) (w : BitVec 32) : Bool :=
  let top := w.extractLsb' 26 6
  (top == 0 || (f3 == 5 && top == 0b010000)) && (x == .x64 || !w.getLsbD 25)

/-- A HINT that overwrites a register with its own value: ADDI and the shift-immediates by 0 (10_state.md R54; log
entry 43). -/
def selfHint (w : BitVec 32) : Bool :=
  rdOf w == rs1Of w &&
    ((funct3Of w == 0 && csrOf w == 0) || ((funct3Of w == 1 || funct3Of w == 5) && w.extractLsb' 20 6 == 0))

/-- The result of an OP-IMM word; under a narrow XLEN a HINT may leave the upper bits of its register unchanged instead
of overwriting them (10_state.md R54). -/
def State.opImmResult (s : State) (w : BitVec 32) (v : Word) : State :=
  if selfHint w && s.xlen != s.cfg.mxlen && Config.hintKeepsUpper s.ctr then s.retire 4 else s.finish (rdOf w) v

/-- OP-IMM. -/
def State.opImm (s : State) (w : BitVec 32) : Host.Outcome State Fault Refusal :=
  let f3 := funct3Of w
  let a := s.readX (rs1Of w)
  if f3 = 1 ∨ f3 = 5 then
    if shiftImmOk s.xlen f3 w then
      .next (s.opImmResult w (intOp s.xlen f3 (w.getLsbD 30) a ((w.extractLsb' 20 6).setWidth 64)))
    else s.unknownWord w
  else .next (s.opImmResult w (intOp s.xlen f3 false a (narrow s.xlen (immI w))))

/-- OP. -/
def State.opReg (s : State) (w : BitVec 32) : Host.Outcome State Fault Refusal :=
  let f3 := funct3Of w
  let a := s.readX (rs1Of w)
  let b := s.readX (rs2Of w)
  if funct7Of w = 0 then .next (s.finish (rdOf w) (intOp s.xlen f3 false a b))
  else if funct7Of w = 0b0100000 ∧ (f3 = 0 ∨ f3 = 5) then .next (s.finish (rdOf w) (intOp s.xlen f3 true a b))
  else s.unknownWord w

/-- A 32-bit result, sign-extended (RV64 word forms). -/
def wordResult (v : Word) : Word := widen .x64 .x32 v

/-- OP-IMM-32, of RV64 only. -/
def State.opImm32 (s : State) (w : BitVec 32) : Host.Outcome State Fault Refusal :=
  let f3 := funct3Of w
  let a := s.readX (rs1Of w)
  if s.xlen = .x32 then s.unknownWord w
  else if f3 = 0 then .next (s.finish (rdOf w) (wordResult (a + immI w)))
  else if (f3 = 1 ∨ f3 = 5) ∧ shiftImmOk .x32 f3 w then
    .next (s.finish (rdOf w) (wordResult (intOp .x32 f3 (w.getLsbD 30) a ((w.extractLsb' 20 5).setWidth 64))))
  else s.unknownWord w

/-- OP-32, of RV64 only. -/
def State.opReg32 (s : State) (w : BitVec 32) : Host.Outcome State Fault Refusal :=
  let f3 := funct3Of w
  let a := s.readX (rs1Of w)
  let b := s.readX (rs2Of w)
  if s.xlen = .x32 then s.unknownWord w
  else if funct7Of w = 0 ∧ (f3 = 0 ∨ f3 = 1 ∨ f3 = 5) then
    .next (s.finish (rdOf w) (wordResult (intOp .x32 f3 false a b)))
  else if funct7Of w = 0b0100000 ∧ (f3 = 0 ∨ f3 = 5) then
    .next (s.finish (rdOf w) (wordResult (intOp .x32 f3 true a b)))
  else s.unknownWord w

/-! ### Loads and stores -/

/-- The width of a load or store by the low bits of funct3. -/
def accessWidth (f3 : BitVec 3) : Nat := 2 ^ (f3.toNat % 4)

/-- The loaded value of n bytes, sign- or zero-extended by bit 2 of funct3. -/
def loadValue (f3 : BitVec 3) (v : Word) : Word :=
  if f3 = 0 then (v.setWidth 8).signExtend 64
  else if f3 = 1 then (v.setWidth 16).signExtend 64
  else if f3 = 2 then (v.setWidth 32).signExtend 64
  else v

/-- LOAD: LD and LWU are of RV64 only. -/
def State.load (s : State) (w : BitVec 32) : Host.Outcome State Fault Refusal :=
  let f3 := funct3Of w
  if f3 = 7 ∨ (s.xlen = .x32 ∧ (f3 = 3 ∨ f3 = 6)) then s.unknownWord w
  else
    State.onAccess (s.memRead (s.readX (rs1Of w) + immI w) (accessWidth f3) .plain)
      (fun v => s.finish (rdOf w) (loadValue f3 v))

/-- STORE: SD is of RV64 only. -/
def State.store (s : State) (w : BitVec 32) : Host.Outcome State Fault Refusal :=
  let f3 := funct3Of w
  if 4 ≤ f3.toNat ∨ (s.xlen = .x32 ∧ f3 = 3) then s.unknownWord w
  else
    State.onAccess (s.memWrite (s.readX (rs1Of w) + immS w) (accessWidth f3) (s.readX (rs2Of w)) .plain)
      (fun t => (t.countRetired none).jump (s.pc + 4))

/-! ### Control transfer and the rest -/

/-- BRANCH. -/
def State.branch (s : State) (w : BitVec 32) : Host.Outcome State Fault Refusal :=
  let f3 := funct3Of w
  if f3 = 2 ∨ f3 = 3 then s.unknownWord w
  else if branchTaken s.xlen f3 (s.readX (rs1Of w)) (s.readX (rs2Of w)) then .next (s.transfer 0 (s.pc + immB w))
  else .next (s.retire 4)

/-- An indirect jump to t: a control transfer, and where it does not raise `ELP` with it, whatever register holds the target.
12_state_config_pmp_mmio.md R184 and R202 give no rule for `ELP` where landing pads are enabled, so it is free there
(DESIGN CHOICE, log entry 12). -/
def State.indirect (s : State) (r : BitVec 5) (t : Word) : State :=
  if s.aligned (narrow s.xlen t) then (s.transfer r t).elpStep else s.transfer r t

/-- JALR. -/
def State.jalr (s : State) (w : BitVec 32) : Host.Outcome State Fault Refusal :=
  if funct3Of w = 0 then .next (s.indirect (rdOf w) ((s.readX (rs1Of w) + immI w) &&& ~~~1#64)) else s.unknownWord w

/-- AUIPC; with `rd` = `x0` it is LPAD, a no-op whose `ELP` is free where landing pads are enabled (log entry 12). -/
def State.auipc (s : State) (w : BitVec 32) : State :=
  if rdOf w = 0 then (s.finish 0 (s.pc + immU w)).elpStep else s.finish (rdOf w) (s.pc + immU w)

/-- A cache-block operation that an extension of the hart defines: CBO.INVAL, CBO.CLEAN, CBO.FLUSH (immediates 0, 1, 2) by
Zicbom, CBO.ZERO (4) by Zicboz. The encodings are PRESUMED, 91_not_in_source.md N22 (log entry 18). -/
def State.cboPresent (s : State) (op : BitVec 12) : Bool :=
  (s.cfg.ext.zicbom && (op == 0 || op == 1 || op == 2)) || (s.cfg.ext.zicboz && op == 4)

/-- A cache-block operation below M-mode that `menvcfg` does not enable (12_state_config_pmp_mmio.md R180 to R182). -/
def State.cboDisabled (s : State) (op : BitVec 12) : Bool :=
  s.priv != .m &&
    ((op == 0 && s.envcfg.cbie == 0) || ((op == 1 || op == 2) && !s.envcfg.cbcfe) || (op == 4 && !s.envcfg.cbze))

/-- MISC-MEM: FENCE, and the enables of the cache-block operations, whose effect is another chapter's. -/
def State.miscMem (s : State) (w : BitVec 32) : Host.Outcome State Fault Refusal :=
  if funct3Of w = 0 then .next (s.fence (fenceSetOf (w.extractLsb' 24 4)) (fenceSetOf (w.extractLsb' 20 4)))
  else if funct3Of w = 2 ∧ rdOf w = 0 ∧ s.cboPresent (csrOf w) = true then
    if s.cboDisabled (csrOf w) then .next (s.illegal w) else s.outside w true
  else s.unknownWord w

/-- AMO: SSAMOSWAP is illegal below M-mode while `menvcfg.SSE` is 0 (12_state_config_pmp_mmio.md R185; encoding PRESUMED, log
entry 18). -/
def State.amo (s : State) (w : BitVec 32) : Host.Outcome State Fault Refusal :=
  if wordOfSsamoswap s.xlen w ∧ s.zicfissOff = true then .next (s.illegal w) else s.unknownWord w

/-- A floating-point format (S, D, H, Q) whose letter is on; H has no letter. -/
def State.floatFormat (s : State) (fmt : BitVec 2) : Bool :=
  if fmt = 0 then s.extF else if fmt = 1 then s.extD else if fmt = 2 then false else s.extQ

/-- A floating-point word that is defined as far as its other fields go and uses the given formats: with F on, illegal while
FS is Off (10_state.md R67). -/
def State.floatWord (s : State) (w : BitVec 32) (defined : Bool) (formats : List (BitVec 2)) :
    Host.Outcome State Fault Refusal :=
  if s.extF then
    if s.status.fs = 0 then .next (s.illegal w) else s.outside w (defined && formats.all s.floatFormat)
  else s.unknownWord w

/-- The formats of an arithmetic floating-point word: that of its `fmt` field, and that of the source of a conversion
between formats. -/
def arithmeticFormats (w : BitVec 32) : List (BitVec 2) :=
  if opcodeOf w = 0b1010011 ∧ w.extractLsb' 27 5 = 0b01000#5 then [w.extractLsb' 25 2, w.extractLsb' 20 2]
  else [w.extractLsb' 25 2]

/-- The encodings of F, D and Q in OP-FP, their format apart. -/
def floatOp (x : Xlen) (w : BitVec 32) : Bool :=
  let f5 := w.extractLsb' 27 5
  let fmt := w.extractLsb' 25 2
  let f3 := funct3Of w
  let r := rs2Of w
  let rounded := f3 != 5 && f3 != 6
  let moves := fmt == 0 || (fmt == 1 && x == .x64)
  if f5.toNat < 4 then rounded
  else if f5 = 0b01011 then r == 0 && rounded
  else if f5 = 0b00100 ∨ f5 = 0b10100 then f3 == 0 || f3 == 1 || f3 == 2
  else if f5 = 0b00101 then f3 == 0 || f3 == 1
  else if f5 = 0b01000 then r.toNat < 4 && r.setWidth 2 != fmt && rounded
  else if f5 = 0b11000 ∨ f5 = 0b11010 then rounded && (r.toNat < 2 || (r.toNat < 4 && x == .x64))
  else if f5 = 0b11100 then r == 0 && ((f3 == 0 && moves) || f3 == 1)
  else if f5 = 0b11110 then r == 0 && f3 == 0 && moves
  else false

/-- The encodings of the arithmetic floating-point words: OP-FP, and the four fused operations with a rounding mode that is
not reserved. -/
def arithmeticDefined (x : Xlen) (w : BitVec 32) : Bool :=
  if opcodeOf w = 0b1010011 then floatOp x w else funct3Of w != 5 && funct3Of w != 6

/-- The codes `funct6` of OP-V that V defines for two operands, bit i for code i, by funct3. -/
def vectorCodes (f3 : BitVec 3) : Word :=
  if f3 = 0 then 0x0003FFAF3F8F5EF5
  else if f3 = 1 then 0xF15FFF111B0007FF
  else if f3 = 2 then 0xBDFFAAFFFF800FFF
  else if f3 = 3 then 0x0000FFA3F383DE09
  else if f3 = 4 then 0x0000FFAFFF8FDEFD
  else if f3 = 5 then 0xF155FF93BB80C755
  else if f3 = 6 then 0xFDFFAAFF0000CF00
  else 0

/-- The words of OP-V with one operand, whose other field is a code: moves, counts, extensions, mask operations and
conversions. -/
def vectorUnary (f3 : BitVec 3) (f6 : BitVec 6) (code vs2 : BitVec 5) : Bool :=
  let among (v : BitVec 32) : Bool := v.getLsbD code.toNat
  if f3 = 1 then
    (f6 == 0b010000 && code == 0) || (f6 == 0b010010 && among 0xFFDFCF) || (f6 == 0b010011 && among 0x10031)
  else if f3 = 2 then
    (f6 == 0b010000 && among 0x30001) || (f6 == 0b010010 && among 0xFC) ||
      (f6 == 0b010100 && (among 0x1000E || (code == 17 && vs2 == 0)))
  else if f3 = 5 ∨ f3 = 6 then f6 == 0b010000 && vs2 == 0
  else false

/-- A whole-register vector access is of 1, 2, 4 or 8 registers. -/
def wholeCount (nf : BitVec 3) : Bool := nf == 0 || nf == 1 || nf == 3 || nf == 7

/-- The vector loads and stores: unit-stride, whole-register, of a mask, fault-only-first, strided and indexed. -/
def vectorAccess (w : BitVec 32) : Bool :=
  let load := opcodeOf w == 0b0000111
  let nf := w.extractLsb' 29 3
  let kind := rs2Of w
  !w.getLsbD 28 && (w.extractLsb' 26 2 != 0 || kind == 0 || (load && kind == 0b10000) ||
    (w.getLsbD 25 && ((kind == 0b01000 && wholeCount nf && (load || funct3Of w == 0)) ||
      (kind == 0b01011 && nf == 0 && funct3Of w == 0))))

/-- The encodings of V, whatever `vtype` makes reserved among them. -/
def wordOfV (w : BitVec 32) : Bool :=
  if opcodeOf w = 0b1010111 then
    if funct3Of w = 7 then !w.getLsbD 31 || w.getLsbD 30 || funct7Of w == 0b1000000
    else (vectorCodes (funct3Of w)).getLsbD (w.extractLsb' 26 6).toNat ||
      vectorUnary (funct3Of w) (w.extractLsb' 26 6) (rs1Of w) (rs2Of w)
  else vectorAccess w

/-- A vector word uses floating-point registers or `fcsr`: OPFVV and OPFVF. -/
def vectorUsesFloat (w : BitVec 32) : Bool :=
  opcodeOf w == 0b1010111 && (funct3Of w == 1 || funct3Of w == 5)

/-- A vector word: with V on, illegal while VS is Off, and while FS is Off or F absent if it uses floating-point state
(10_state.md R67). -/
def State.vectorWord (s : State) (w : BitVec 32) : Host.Outcome State Fault Refusal :=
  if s.extV then
    if s.status.vs = 0 ∨ (vectorUsesFloat w = true ∧ (s.status.fs = 0 ∨ s.extF = false)) then .next (s.illegal w)
    else s.outside w (wordOfV w)
  else s.unknownWord w

/-- LOAD-FP and STORE-FP hold vector accesses at four widths. -/
def State.floatAccess (s : State) (w : BitVec 32) : Host.Outcome State Fault Refusal :=
  if funct3Of w = 0 ∨ 5 ≤ (funct3Of w).toNat then s.vectorWord w
  else s.floatWord w true [if funct3Of w = 1 then 2 else if funct3Of w = 2 then 0 else if funct3Of w = 3 then 1 else 3]

/-- The format of a compressed floating-point load or store: C.FLD, C.FSD and their SP forms, and with XLEN=32 C.FLW, C.FSW
and theirs. -/
def compressedFormat (x : Xlen) (w : BitVec 32) : Option (BitVec 2) :=
  let f3 := w.extractLsb' 13 3
  if w.extractLsb' 0 2 = 1#2 then none
  else if f3 = 1#3 ∨ f3 = 5#3 then some 1
  else if (f3 = 3#3 ∨ f3 = 7#3) ∧ x = .x32 then some 0
  else none

/-- A register field names a register that RV32E and RV64E lack (10_state.md R21; log entry 20). -/
def State.badReg (s : State) (r : BitVec 5) : Bool := s.rvE && decide (16 ≤ r.toNat)

/-- The integer encodings of C but C.EBREAK; hints are among them. -/
def wordOfC (x : Xlen) (w : BitVec 32) : Bool :=
  let q := w.extractLsb' 0 2
  let f3 := w.extractLsb' 13 3
  let rd := w.extractLsb' 7 5
  let low := w.extractLsb' 2 5
  let top := w.getLsbD 12
  let wide := x == .x64
  if q = 0 then
    if f3 = 0 then w.extractLsb' 5 8 != 0 else f3 == 2 || f3 == 6 || (wide && (f3 == 3 || f3 == 7))
  else if q = 1 then
    if f3 = 1 then !wide || rd != 0
    else if f3 = 3 then top || low != 0
    else if f3 = 4 then
      if w.extractLsb' 11 1 = 0 then wide || !top
      else w.extractLsb' 10 2 == 2 || !top || (wide && !w.getLsbD 6)
    else true
  else
    if f3 = 0 then wide || !top
    else if f3 = 2 then rd != 0
    else if f3 = 3 ∨ f3 = 7 then wide && (f3 == 7 || rd != 0)
    else if f3 = 4 then low != 0 || rd != 0
    else f3 == 6

/-- The five-bit register fields of a 16-bit integer instruction. -/
def compressedRegs (x : Xlen) (w : BitVec 32) : List (BitVec 5) :=
  let q := w.extractLsb' 0 2
  let f3 := w.extractLsb' 13 3
  let rd := w.extractLsb' 7 5
  let rs2 := w.extractLsb' 2 5
  if q = 1 then (if f3.toNat < 4 ∧ (f3 ≠ 1 ∨ x = .x64) then [rd] else [])
  else if q = 2 then (if f3 = 4 then [rd, rs2] else if f3 = 6 ∨ f3 = 7 then [rs2] else [rd])
  else []

/-- A 16-bit instruction other than C.EBREAK, which exists only with C; one of floating-point state is illegal while FS is
Off or its format absent (10_state.md R67), one of Zicfiss is a Zcmop instruction where Zicfiss does not act, which does
nothing (12_state_config_pmp_mmio.md R185, 30_encoding.md R349; PRESUMED, log entry 18). -/
def State.compressed (s : State) (w : BitVec 32) : Host.Outcome State Fault Refusal :=
  if s.extC then
    match compressedFormat s.xlen w with
    | some f => s.floatWord w true [f]
    | none =>
      if s.cfg.ext.zicfiss ∧ wordOfCompressedZicfiss w then
        if s.zicfissOff then .next (s.retire 2) else .refused (.unprivileged w)
      else if wordOfC s.xlen w ∧ (compressedRegs s.xlen w).any s.badReg then .next (s.illegal w) else s.outside w (wordOfC s.xlen w)
  else .next (s.illegal w)

/-- Which of `rd`, `rs1`, `rs2` a major opcode uses. -/
def usedRegs (w : BitVec 32) : List (BitVec 5) :=
  let op := opcodeOf w
  if op = 0b0110111 ∨ op = 0b0010111 ∨ op = 0b1101111 then [rdOf w]
  else if op = 0b1100111 ∨ op = 0b0000011 ∨ op = 0b0010011 ∨ op = 0b0011011 then [rdOf w, rs1Of w]
  else if op = 0b1100011 ∨ op = 0b0100011 then [rs1Of w, rs2Of w]
  else if op = 0b0110011 ∨ op = 0b0111011 then [rdOf w, rs1Of w, rs2Of w]
  else if op = systemOpcode then [rdOf w]
  else []

/-- A SYSTEM word that no row of the opcode table matches: one of Zicfiss, which where Zicfiss does not act is a Zimop
instruction and writes 0 to `rd` (12_state_config_pmp_mmio.md R185, 30_encoding.md R349; PRESUMED, log entry 18), or
reserved, hence illegal (30_encoding.md R345). -/
def State.otherSystem (s : State) (w : BitVec 32) : Host.Outcome State Fault Refusal :=
  if s.cfg.ext.zicfiss ∧ wordOfZicfiss w then
    if s.zicfissOff then .next (s.finish (rdOf w) 0) else .refused (.unprivileged w)
  else .next (s.illegal w)

/-- The base instructions by major opcode. LPAD is AUIPC with `rd` = `x0`, a no-op but for `ELP` whatever `LPE` and `MLPE` are:
the check of its label is another chapter's (PRESUMED, 91_not_in_source.md N22; log entries 12, 18). -/
def State.baseOpcode (s : State) (w : BitVec 32) : Host.Outcome State Fault Refusal :=
  let op := opcodeOf w
  if w.extractLsb' 0 2 ≠ 0b11#2 then s.compressed w
  else if op = 0b0110111 then .next (s.finish (rdOf w) (immU w))
  else if op = 0b0010111 then .next (s.auipc w)
  else if op = 0b1101111 then .next (s.transfer (rdOf w) (s.pc + immJ w))
  else if op = 0b1100111 then s.jalr w
  else if op = 0b1100011 then s.branch w
  else if op = 0b0000011 then s.load w
  else if op = 0b0100011 then s.store w
  else if op = 0b0010011 then s.opImm w
  else if op = 0b0110011 then s.opReg w
  else if op = 0b0011011 then s.opImm32 w
  else if op = 0b0111011 then s.opReg32 w
  else if op = 0b0001111 then s.miscMem w
  else if op = 0b0000111 ∨ op = 0b0100111 then s.floatAccess w
  else if op = 0b1010011 ∨ op = 0b1000011 ∨ op = 0b1000111 ∨ op = 0b1001011 ∨ op = 0b1001111 then
    s.floatWord w (arithmeticDefined s.xlen w) (arithmeticFormats w)
  else if op = 0b1010111 then s.vectorWord w
  else if op = 0b0101111 then s.amo w
  else if op = systemOpcode then s.otherSystem w
  else s.unknownWord w

/-- `baseExec` of an instruction word (10_state.md R23). -/
def State.baseExec (s : State) (w : BitVec 32) : Host.Outcome State Fault Refusal :=
  if (usedRegs w).any s.badReg then .next (s.illegal w) else s.baseOpcode w

end Sys2Proof.Machine
end

