-- ==== Sys2Proof/Machine/Call.lean ====
section
/-! DEFINITION. Environment call and breakpoint (41_ecall_ebreak.md R400 to R405). -/

namespace Sys2Proof.Machine

/-- The code of an environment call from a mode (41_ecall_ebreak.md R400). -/
def ecallCode : Priv → Nat
  | .u => 8
  | .s => 9
  | .m => 11

/-- A breakpoint: `mtval` is zero or the address of the instruction, zero-extended under a narrow XLEN
(41_ecall_ebreak.md R402, R403, which states no extension: DESIGN CHOICE, log entry 21). -/
def State.breakpoint (s : State) : State := s.raise 3 s.pcAddr

/-- ECALL (41_ecall_ebreak.md R400). -/
def execEcall (s : State) : Host.Outcome State Fault Refusal := .next (s.raise (ecallCode s.priv) 0)

/-- EBREAK (41_ecall_ebreak.md R402). -/
def execEbreak (s : State) : Host.Outcome State Fault Refusal := .next s.breakpoint

/-- C.EBREAK performs the same operation; it exists only with C (41_ecall_ebreak.md R405). -/
def execCEbreak (s : State) : Host.Outcome State Fault Refusal := .next (s.unlessReserved .cEbreak s.breakpoint)

end Sys2Proof.Machine
end

