-- ==== Sys2Proof/Machine/Custom.lean ====
section
/-! DEFINITION. The custom SYSTEM instructions (44_custom_and_fences.md R430, R431). -/

namespace Sys2Proof.Machine

/-! ### The accesses of a custom instruction -/

/-- Loads in order, each with the checks of a load (20_memory.md R285). Each is of class `plain`, so that the granule of R264
holds for it too: R264 names only AMOs and the loads and stores of the base ISAs, F, D and Q, and 44_custom_and_fences.md R431
leaves a custom word's accesses to the implementation (DESIGN CHOICE, log entry 58). -/
def State.loadEach (s : State) : List (Word × Fin 4) → Access State
  | [] => .ok s
  | (ea, k) :: rest => match s.memRead ea (2 ^ k.val) .plain with
    | .ok _ => s.loadEach rest
    | .exc t code v => .exc t code v
    | .stop f => .stop f

/-- Stores in order, each with the checks of a store (20_memory.md R286), in a granule of R264 too (DESIGN CHOICE, log entry
58). -/
def State.storeEach (s : State) : List (Word × Fin 4 × Word) → Access State
  | [] => .ok s
  | (ea, k, v) :: rest => match s.memWrite ea (2 ^ k.val) v .plain with
    | .ok t => t.storeEach rest
    | e => e

/-- The stores of a custom instruction: where one raises none is visible, but for an access fault, under which those before it
may be (60_exceptions.md R454, 20_memory.md R272; a free choice, log entry 19). -/
def State.customStores (s : State) (l : List (Word × Fin 4 × Word)) : Access State :=
  match s.storeEach l with
  | .exc t code v => .exc (if code == 7 && Config.partialStore s.ctr then t else s) code v
  | r => r

/-- The accesses of a custom instruction, loads first (log entry 19). -/
def State.customAccesses (s : State) (e : CustomEffect) : Access State :=
  match s.loadEach e.loads with
  | .ok t => t.customStores e.stores
  | r => r

/-! ### Its other effects -/

/-- A CSR write of a custom instruction, where a CSR instruction of the current mode could make it (60_exceptions.md R521,
10_state.md R67). -/
def State.customCsr (s : State) (p : BitVec 12 × Word) : Option (CsrName × Word) :=
  match s.csrAt p.1 with
  | some n => if s.csrAllowed n p.1 true then some (n, narrow s.xlen p.2) else none
  | none => none

/-- An effect is allowed if the hart could make each of its CSR writes and none of its actions meets a unit that is Off; else
the word is illegal (10_state.md R67, R68). -/
def State.customAllowed (s : State) (e : CustomEffect) : Bool :=
  e.csrs.all (fun p => (s.customCsr p).isSome) && e.units.all s.unitReady

/-- The CSR writes of an effect, in order, but those of a unit's state after all others, so that the status that they make
Dirty stays so (10_state.md R68; log entry 19). -/
def State.customCsrs (s : State) (e : CustomEffect) : List (CsrName × Word) :=
  let l := e.csrs.filterMap s.customCsr
  l.filter (fun p => (s.registerUnit p.1).isNone) ++ l.filter (fun p => (s.registerUnit p.1).isSome)

/-- CSR writes in order. -/
def State.customCsrWrites (s : State) : List (CsrName × Word) → State
  | [] => s
  | (n, v) :: rest => (s.csrWrite v n).customCsrWrites rest

/-- The register writes of a custom instruction. -/
def State.customRegs (s : State) : List (BitVec 5 × Word) → State
  | [] => s
  | (r, v) :: rest => (s.writeX s.xlen r v).customRegs rest

/-- A custom instruction retires: it counts, acts on units, writes what it writes, leaves every unit that it modifies Dirty
(10_state.md R68), and goes to an aligned address. Whether its write of `misa` is suppressed is judged by pc + 4 as for a CSR
instruction, also where it goes to another address: 10_state.md R38 gives pseudocode for a CSR instruction only (DESIGN CHOICE,
log entry 19). -/
def State.customRetire (s : State) (e : CustomEffect) : State :=
  let t := ((s.countRetired none).unitSteps e.units).customCsrWrites (s.customCsrs e)
  let t := (t.unitSteps (e.units.filter (fun p => p.2 == .modify))).customRegs e.regs
  t.setPc (widen s.cfg.mxlen s.xlen (t.epcMasked (e.target.getD (s.pc + 4))))

/-- A custom word: where the implementation defines `customExec`, the new state or the exception that it gives, which the
source leaves to the implementation (a free value, log entry 19); elsewhere (REF: everywhere) the word is reserved and
illegal (44_custom_and_fences.md R431), and so is one that uses state of a unit whose status is Off (10_state.md R67). -/
def State.custom (s : State) (i : Instr) : Host.Outcome State Fault Refusal :=
  if i.wellFormed s.features then
    match Config.customExec (encode i) s.ctr with
    | .undefined => .next (s.illegal (encode i))
    | .raises code tval => .next (s.raise (customCode code) (narrow s.cfg.mxlen tval))
    | .retires e =>
      if s.customAllowed e then State.onAccess (s.customAccesses e) (fun t => t.customRetire e)
      else .next (s.illegal (encode i))
  else .next (s.illegal (encode i))

/-- Custom SYSTEM, funct6=100011, recommended unprivileged (44_custom_and_fences.md R430). -/
def execCustom100011 (hi : BitVec 11) (lo : BitVec 5) (s : State) : Host.Outcome State Fault Refusal :=
  s.custom (.custom100011 hi lo)

/-- Custom SYSTEM, funct6=110011, recommended unprivileged (44_custom_and_fences.md R430). -/
def execCustom110011 (hi : BitVec 11) (lo : BitVec 5) (s : State) : Host.Outcome State Fault Refusal :=
  s.custom (.custom110011 hi lo)

/-- Custom SYSTEM, funct6=100111, recommended supervisor (44_custom_and_fences.md R430). -/
def execCustom100111 (hi : BitVec 11) (lo : BitVec 5) (s : State) : Host.Outcome State Fault Refusal :=
  s.custom (.custom100111 hi lo)

/-- Custom SYSTEM, funct6=110111, recommended supervisor (44_custom_and_fences.md R430). -/
def execCustom110111 (hi : BitVec 11) (lo : BitVec 5) (s : State) : Host.Outcome State Fault Refusal :=
  s.custom (.custom110111 hi lo)

/-- Custom SYSTEM, funct6=101011, recommended HS (44_custom_and_fences.md R430). -/
def execCustom101011 (hi : BitVec 11) (lo : BitVec 5) (s : State) : Host.Outcome State Fault Refusal :=
  s.custom (.custom101011 hi lo)

/-- Custom SYSTEM, funct6=111011, recommended HS (44_custom_and_fences.md R430). -/
def execCustom111011 (hi : BitVec 11) (lo : BitVec 5) (s : State) : Host.Outcome State Fault Refusal :=
  s.custom (.custom111011 hi lo)

/-- Custom SYSTEM, funct6=101111, recommended machine (44_custom_and_fences.md R430). -/
def execCustom101111 (hi : BitVec 11) (lo : BitVec 5) (s : State) : Host.Outcome State Fault Refusal :=
  s.custom (.custom101111 hi lo)

/-- Custom SYSTEM, funct6=111111, recommended machine (44_custom_and_fences.md R430). -/
def execCustom111111 (hi : BitVec 11) (lo : BitVec 5) (s : State) : Host.Outcome State Fault Refusal :=
  s.custom (.custom111111 hi lo)

end Sys2Proof.Machine
end

