-- ==== Sys2Proof/Machine/Return.lean ====
section
/-! DEFINITION. The trap-return instructions (42_trap_return.md R410 to R418). -/

namespace Sys2Proof.Machine

/-- MRET (42_trap_return.md R411, R412). -/
def execMret (s : State) : Host.Outcome State Fault Refusal :=
  .next (if s.priv = .m then s.returnM else s.illegal (encode .mret))

/-- SRET is illegal below S-mode, and in S-mode with `TSR` set (42_trap_return.md R413). -/
def State.sretIllegal (s : State) : Bool :=
  match s.priv with
  | .u => true
  | .s => s.status.tsr
  | .m => false

/-- SRET (42_trap_return.md R413). -/
def execSret (s : State) : Host.Outcome State Fault Refusal :=
  .next (s.unlessReserved .sret (if s.sretIllegal then s.illegal (encode .sret) else s.returnS))

/-- MNRET (42_trap_return.md R417); below M-mode it is illegal (R412, bits 29:28 of 30_encoding.md R332). -/
def execMnret (s : State) : Host.Outcome State Fault Refusal :=
  .next (s.unlessReserved .mnret (if s.priv = .m then s.returnRnmi else s.illegal (encode .mnret)))

end Sys2Proof.Machine
end

