-- ==== Sys2Proof/Machine/Wfi.lean ====
section
/-! DEFINITION. Wait for interrupt (43_wfi.md R420 to R426): the instruction and the stalled state. -/

namespace Sys2Proof.Machine

/-- A WFI that may wait only for the time limit (43_wfi.md R423). -/
def State.wfiTimed (s : State) : Bool :=
  match s.priv with
  | .m => false
  | .s => s.status.tw
  | .u => s.status.tw || s.hasS

/-- WFI is not available here (43_wfi.md R423). -/
def State.wfiAbsent (s : State) : Bool := s.priv == .u && !s.hasS && !s.cfg.wfiInU

/-- Whether a WFI that executes now stalls the hart; it does not stay stalled where a wake-up is pending (43_wfi.md
R420, R421). -/
def State.wfiStalls (s : State) : Bool :=
  !s.wake && match s.cfg.wfiKind with
    | .nop => false
    | .stall => true
    | .free => Config.wfiStalls s.ctr

/-- WFI where it may wait: it retires, and the hart stalls or goes on (43_wfi.md R420). -/
def State.wfiWait (s : State) : State := (s.retire 4).setWait { stalled := s.wfiStalls, timer := none }

/-- WFI under the time limit: with limit 0 it raises at once, else it completes or waits at its own address
(43_wfi.md R423, 92_eei_decisions.md D26); the step in which it starts to wait retires nothing, `mcycle` may advance
(11_state_trap_csrs.md R125, 70_reset_and_hazards.md R570). An NMI then drops the WFI (DESIGN CHOICE, log entry 9). -/
def State.wfiLimited (s : State) : State :=
  if s.cfg.twLimit = 0 then s.illegal (encode .wfi)
  else if s.wfiStalls then s.countIdle.setWait { stalled := true, timer := some s.cfg.twLimit }
  else (s.retire 4).setWait .running

/-- WFI (43_wfi.md R420, R423). -/
def execWfi (s : State) : Host.Outcome State Fault Refusal :=
  .next (if s.wfiAbsent then s.illegal (encode .wfi) else if s.wfiTimed then s.wfiLimited else s.wfiWait)

/-! ### The stalled hart -/

/-- A stalled hart resumes on a wake-up, and may resume without one (43_wfi.md R421, R422). -/
def State.resumes (s : State) : Bool :=
  s.wake || match s.cfg.wfiKind with
    | .free => Config.spuriousWake s.ctr
    | _ => false

/-- A limited WFI completes when the hart resumes: that is the step (43_wfi.md R420, R423; log entry 9). -/
def State.completeLimited (s : State) : State := (s.retire 4).setWait .running

/-- An idle step: the limited WFI raises when its limit is over (43_wfi.md R423; log entry 9). -/
def State.idle (s : State) : State :=
  match s.wait.timer with
  | none => s.countIdle
  | some 0 => (s.setWait .running).illegal (encode .wfi)
  | some (k + 1) => s.countIdle.setWait { stalled := true, timer := some k }

end Sys2Proof.Machine
end

