-- ==== Sys2Proof/Machine/Dispatch.lean ====
section
/-! DEFINITION. One arm for each row of spec/opcode_table.json. -/

namespace Sys2Proof.Machine

def exec (i : Instr) (s : State) : Host.Outcome State Fault Refusal :=
  match i with
  | .csrrw rd rs1 csr => Sys2Proof.Machine.execCsrrw rd rs1 csr s
  | .csrrs rd rs1 csr => Sys2Proof.Machine.execCsrrs rd rs1 csr s
  | .csrrc rd rs1 csr => Sys2Proof.Machine.execCsrrc rd rs1 csr s
  | .csrrwi rd uimm csr => Sys2Proof.Machine.execCsrrwi rd uimm csr s
  | .csrrsi rd uimm csr => Sys2Proof.Machine.execCsrrsi rd uimm csr s
  | .csrrci rd uimm csr => Sys2Proof.Machine.execCsrrci rd uimm csr s
  | .ecall => Sys2Proof.Machine.execEcall s
  | .ebreak => Sys2Proof.Machine.execEbreak s
  | .sret => Sys2Proof.Machine.execSret s
  | .mret => Sys2Proof.Machine.execMret s
  | .mnret => Sys2Proof.Machine.execMnret s
  | .wfi => Sys2Proof.Machine.execWfi s
  | .sfenceVma rs1 rs2 => Sys2Proof.Machine.execSfenceVma rs1 rs2 s
  | .sinvalVma rs1 rs2 => Sys2Proof.Machine.execSinvalVma rs1 rs2 s
  | .custom100011 hi lo => Sys2Proof.Machine.execCustom100011 hi lo s
  | .custom110011 hi lo => Sys2Proof.Machine.execCustom110011 hi lo s
  | .custom100111 hi lo => Sys2Proof.Machine.execCustom100111 hi lo s
  | .custom110111 hi lo => Sys2Proof.Machine.execCustom110111 hi lo s
  | .custom101011 hi lo => Sys2Proof.Machine.execCustom101011 hi lo s
  | .custom111011 hi lo => Sys2Proof.Machine.execCustom111011 hi lo s
  | .custom101111 hi lo => Sys2Proof.Machine.execCustom101111 hi lo s
  | .custom111111 hi lo => Sys2Proof.Machine.execCustom111111 hi lo s
  | .cEbreak => Sys2Proof.Machine.execCEbreak s

end Sys2Proof.Machine
end

