-- ==== Sys2Proof/Machine/Cycle.lean ====
section
/-! DEFINITION. One step of the hart (60_exceptions.md R510): the platform's inputs, reset, the critical-error state,
NMI, the stalled hart, interrupts, fetch and execution. -/

namespace Sys2Proof.Machine

/-! ### Platform inputs (60_exceptions.md R510 step 1; log entries 7, 41) -/

/-- What the platform presents when the schedule is empty: the levels stay, nothing happens, everything is in step. -/
def State.quiet (s : State) : PlatIn where
  reset := none
  nmi := false
  mei := s.plat.mei
  sei := s.plat.sei
  irqs := s.plat.irqs
  ssiSet := false
  irqSet := 0
  hwError := none
  ticks := 0
  sync := true
  stores := []

/-- The inputs of this step. -/
def State.input (s : State) : PlatIn := s.inputs.head?.getD s.quiet

/-- The stores of other harts and devices, then the ticks of `mtime` and the levels. -/
def State.platformMoves (s : State) (p : PlatIn) : State :=
  let t := s.physWriteAll p.stores
  t.setPlat { t.plat with
    mtime := t.plat.mtime + BitVec.ofNat 64 p.ticks
    mei := p.mei
    sei := p.sei
    irqs := p.irqs }

/-- `sync_mtip`, `sync_msip` and the `time` shadow (12_state_config_pmp_mmio.md R232, R235, R236; log entry 29). -/
def State.synchronised (s : State) (p : PlatIn) : State :=
  if p.sync then
    s.setPlat { s.plat with
      mtip := decide (s.plat.mtimecmp.toNat ≤ s.plat.mtime.toNat)
      msipSeen := s.plat.msip
      timeSeen := s.plat.mtime }
  else s

/-- `plat.SSI_set` (11_state_trap_csrs.md R120) and the requests of platform interrupts that software can clear (R118); in the
critical-error state the hart's registers stay as they are (60_exceptions.md R493, R510 step 0). -/
def State.requested (s : State) (p : PlatIn) : State :=
  if s.criticalError then s
  else s.setCsr { s.csr with
    ssip := s.csr.ssip || (p.ssiSet && s.hasS)
    platSw := s.csr.platSw ||| (p.irqSet &&& s.platWritable) }

/-- The state after the platform's part of a step; the next step reads fresh free values (log entry 8). -/
def State.sampled (s : State) (p : PlatIn) : State :=
  ((((s.platformMoves p).synchronised p).requested p).setInputs s.inputs.tail).setCtr (s.ctr + 1)

/-! ### Reset and the critical-error state -/

/-- Reset: the hart starts again, the platform, memory and the schedule stay; `mcause` takes what the configuration gives
for the cause (70_reset_and_hazards.md R550, R553, R556, 12_state_config_pmp_mmio.md R241; log entry 27). -/
def State.restarted (s : State) (cause : Nat) : State :=
  let t := State.resetFor s.cfg
  ((((t.setCsr { t.csr with mcause := narrow s.cfg.mxlen (s.cfg.resetCause cause) }).setPlat s.plat).setInputs s.inputs).setMem s.mem).setCtr
    s.ctr

/-- A step in the critical-error state: nothing but the counters, which are UNSPECIFIED (60_exceptions.md R493; log
entry 26). -/
def State.criticalStep (s : State) : State :=
  s.setCnt { s.cnt with mcycle := Config.criticalCounter 0 s.ctr, minstret := Config.criticalCounter 2 s.ctr }

/-! ### Running an instruction -/

/-- A fetched word: an instruction of the opcode table, a word of Volume I, or reserved (30_encoding.md R338, R345). -/
def State.runWord (s : State) (w : BitVec 32) : Host.Outcome State Fault Refusal :=
  match decodeWord w with
  | .ok i => exec i s
  | .error _ => s.baseExec w

/-- An instruction longer than 32 bits, of which n bytes more are fetched: none is defined, so it is illegal, and the trap
value has as many of its bits as ILEN and MXLEN admit (30_encoding.md R345, 11_state_trap_csrs.md R155; log entry 48). -/
def State.runLong (s : State) (w : BitVec 32) (n : Nat) : Host.Outcome State Fault Refusal :=
  State.onAccess (s.fetchTail n) (fun tail => s.raise 2 (w.setWidth 64 ||| (tail.setWidth 64 <<< 32)))

/-- A fetched word runs, by its length. -/
def State.runFetched (s : State) (w : BitVec 32) : Host.Outcome State Fault Refusal :=
  if s.tailBytes w = 0 then s.runWord w else s.runLong w (s.tailBytes w)

/-- Steps 5 to 7 of 60_exceptions.md R510; a hardware error is recognised at the fetch (R453; log entry 25). -/
def State.fetchAndRun (s : State) (hwError : Option Word) : Host.Outcome State Fault Refusal :=
  match s.fetch with
  | .ok w =>
    match hwError with
    | none => s.runFetched w
    | some a => .next (s.raise 19 (narrow s.cfg.mxlen a))
  | .exc t code tval => .next (t.raise code tval)
  | .stop f => .fault f

/-- Steps 4 to 7 of 60_exceptions.md R510. -/
def State.interruptOrRun (s : State) (p : PlatIn) : Host.Outcome State Fault Refusal :=
  match s.pendingInterrupt with
  | some (toS, i) => .next (s.takeInterrupt toS i)
  | none => s.fetchAndRun p.hwError

/-- Step 3 of 60_exceptions.md R510: the stalled hart (43_wfi.md R421, R422). -/
def State.awake (s : State) (p : PlatIn) : Host.Outcome State Fault Refusal :=
  if !s.wait.stalled then s.interruptOrRun p
  else if !s.resumes then .next s.idle
  else if s.wait.timer.isSome then .next s.completeLimited
  else (s.setWait .running).interruptOrRun p

/-- An NMI is taken now; with Smrnmi not while `mnstatus.NMIE` is 0, when it does not resume a stalled WFI either
(60_exceptions.md R500, R540; PRESUMED, log entry 13). -/
def State.nmiTaken (s : State) (p : PlatIn) : Bool :=
  p.nmi && s.cfg.nmiImpl && (!s.cfg.ext.smrnmi || s.rnmi.nmie)

/-- The hart's part of a step, after the platform's. A reset goes before an NMI of the same step, which is lost: the spec
orders neither (DESIGN CHOICE, log entry 27). An NMI that ends the wait of a limited WFI drops that WFI (DESIGN CHOICE, log
entry 9). -/
def State.hartStep (s : State) (p : PlatIn) : Host.Outcome State Fault Refusal :=
  match p.reset with
  | some cause => .next (s.restarted cause)
  | none =>
    if s.criticalError then .next s.criticalStep
    else if s.nmiTaken p then .next s.takeNmi
    else s.awake p

/-- One step (60_exceptions.md R510). -/
def State.stepOnce (s : State) : Host.Outcome State Fault Refusal := (s.sampled s.input).hartStep s.input

/-! ### Placing an instruction -/

/-- The low 32 bits of an instruction of nbits bits as memory cells from a on (20_memory.md R252). -/
def State.placeWord (s : State) (nbits w : Nat) : State :=
  s.setMem (Memory.writeBytes s.mem s.pcAddr.toNat (bytesOfWord (BitVec.ofNat 32 (w % 2 ^ nbits))))

end Sys2Proof.Machine
end

