-- ==== Sys2Proof/Safety.lean ====
section
/-! DEFINITION. What claims about the machine are said in: what one register and one byte read as, what stays the same,
the invariants of every step, and a safe run. -/

namespace Sys2Proof.Machine

/-! ### Views -/

/-- Integer register r in full width; `x[0]` is 0 (10_state.md R21). -/
def State.xAt (s : State) (r : BitVec 5) : Word := if r = 0 then 0 else s.x[r.toNat]'(r.isLt)

/-- One byte of the address space, memory or a memory-mapped register (20_memory.md R250). -/
def State.byteAt (s : State) (a : Nat) : Byte := s.physRead a

/-! ### Frames -/

/-- Every integer register but one is unchanged. -/
def sameXBut (rd : BitVec 5) (s t : State) : Prop := ∀ r, r ≠ rd → t.xAt r = s.xAt r

/-- Every integer register is unchanged. -/
def sameX (s t : State) : Prop := ∀ r, t.xAt r = s.xAt r

/-- Every byte reads as before. -/
def sameBytes (s t : State) : Prop := ∀ a, t.byteAt a = s.byteAt a

/-- What no instruction but a store, and no trap, changes: the configuration, PMP apart from its own CSRs, the units'
registers, the critical-error state, the platform, the schedule and the counter of the free values. -/
def sameBase (s t : State) : Prop :=
  t.cfg = s.cfg ∧ t.units = s.units ∧ t.pmp = s.pmp ∧ t.criticalError = s.criticalError ∧ t.plat = s.plat ∧
    t.inputs = s.inputs ∧ t.ctr = s.ctr ∧ t.mem = s.mem

/-- The supervisor registers and the Smrnmi registers are unchanged too. -/
def sameRest (s t : State) : Prop := sameBase s t ∧ t.sup = s.sup ∧ t.rnmi = s.rnmi

/-- The machine-level CSRs apart from `mstatus`, `mepc`, `mcause`, `mtval` and `mip.LCOFIP`, which counting may set. -/
def sameCsrs (s t : State) : Prop :=
  t.csr.misa = s.csr.misa ∧ t.csr.mtvec = s.csr.mtvec ∧ t.csr.medeleg = s.csr.medeleg ∧
    t.csr.mideleg = s.csr.mideleg ∧ t.csr.mie = s.csr.mie ∧ t.csr.seipSw = s.csr.seipSw ∧ t.csr.stip = s.csr.stip ∧
    t.csr.ssip = s.csr.ssip ∧ t.csr.platSw = s.csr.platSw ∧ t.csr.mcounteren = s.csr.mcounteren ∧
    t.csr.mcountinhibit = s.csr.mcountinhibit ∧ t.csr.mscratch = s.csr.mscratch ∧ t.csr.menvcfg = s.csr.menvcfg ∧
    t.csr.mseccfg = s.csr.mseccfg

/-- The registers that a trap into M-mode saves into are unchanged. -/
def sameSaved (s t : State) : Prop :=
  t.csr.mepc = s.csr.mepc ∧ t.csr.mcause = s.csr.mcause ∧ t.csr.mtval = s.csr.mtval

/-- What a trap into a mode or a return to it leaves of the landing-pad bits: all as they were without Zicfilp, `ELP` clear
where landing pads are not enabled in the mode (12_state_config_pmp_mmio.md R184, R202; 91_not_in_source.md N9). -/
def landingPad (y : Priv) (s t : State) : Prop :=
  (s.cfg.ext.zicfilp = false →
    t.elp = s.elp ∧ t.csr.mstatus.mpelp = s.csr.mstatus.mpelp ∧ t.csr.mstatus.spelp = s.csr.mstatus.spelp) ∧
  (s.cfg.ext.zicfilp = true → s.landingPads y = false → t.elp = false)

/-- `minstret` counted one instruction, unless `mcountinhibit.IR` is set (11_state_trap_csrs.md R126, R138). -/
def counted (s t : State) : Prop :=
  t.cnt.minstret = (if s.inhibited 2 then s.cnt.minstret else s.cnt.minstret + 1)

/-- An instruction of 4 bytes retired: `pc` is behind it and `minstret` counted it (10_state.md R22). -/
def retired4 (s t : State) : Prop := t.pc = widen s.cfg.mxlen s.xlen (s.pc + 4) ∧ counted s t

/-- Nothing but `pc`, the counters and the waiting state changed, and the instruction retired. -/
def onlyRetired (s t : State) : Prop :=
  retired4 s t ∧ sameX s t ∧ sameBytes s t ∧ sameRest s t ∧ sameCsrs s t ∧ sameSaved s t ∧
    t.csr.mstatus = s.csr.mstatus ∧ t.priv = s.priv ∧ t.reservation = s.reservation ∧ t.elp = s.elp

/-- The machine-level CSRs apart from `mscratch` and `mip.LCOFIP` are unchanged. -/
def sameCsrsButScratch (s t : State) : Prop :=
  t.csr = { s.csr with mscratch := t.csr.mscratch, lcofip := t.csr.lcofip }

/-- The value a CSR instruction gives `rd`: XLEN bits, sign-extended to MXLEN (40_csr_access.md R371, 10_state.md R53);
`x[0]` stays 0. -/
def rdValue (s : State) (rd : BitVec 5) (v : Word) : Word := if rd = 0 then 0 else widen s.cfg.mxlen s.xlen v

/-- A CSR instruction on `mscratch` left a value there and the old one in `rd`, and changed nothing else but `pc` and
the counters (40_csr_access.md R371). -/
def scratchEffect (s t : State) (rd : BitVec 5) (new : Word) : Prop :=
  t.csr.mscratch = new ∧ t.xAt rd = rdValue s rd s.csr.mscratch ∧
    sameXBut rd s t ∧ sameBytes s t ∧ sameCsrsButScratch s t ∧ sameRest s t ∧ retired4 s t ∧ t.priv = s.priv ∧
    t.wait = s.wait ∧ t.reservation = s.reservation ∧ t.elp = s.elp

/-- A write of a floating-point CSR left `fcsr` and `rd` with the values, made FS Dirty if `fcsr` changed, and changed
nothing else but `pc`, the counters and `mip.LCOFIP`, which counting may set (40_csr_access.md R371, 10_state.md R68). -/
def floatEffect (s t : State) (rd : BitVec 5) (new : BitVec 8) (old : Word) : Prop :=
  t = { s with
      x := t.x, pc := t.pc, cnt := t.cnt, units := { s.units with fcsr := new }
      csr := { s.csr with mstatus := { s.csr.mstatus with fs := t.csr.mstatus.fs }, lcofip := t.csr.lcofip } } ∧
    (new ≠ s.units.fcsr → t.csr.mstatus.fs = 3) ∧ t.xAt rd = rdValue s rd old ∧ sameXBut rd s t ∧ retired4 s t

/-- The register forms of the CSR instructions. -/
def registerForms (rd rs1 : BitVec 5) (csr : BitVec 12) : List Instr :=
  [.csrrw rd rs1 csr, .csrrs rd rs1 csr, .csrrc rd rs1 csr]

/-- The immediate forms of the CSR instructions. -/
def immediateForms (rd uimm : BitVec 5) (csr : BitVec 12) : List Instr :=
  [.csrrwi rd uimm csr, .csrrsi rd uimm csr, .csrrci rd uimm csr]

/-- The six CSR instructions with the same operands: `a` is `rs1` or the immediate. -/
def csrForms (rd a : BitVec 5) (csr : BitVec 12) : List Instr := registerForms rd a csr ++ immediateForms rd a csr

/-- The CSR instructions that write the register (40_csr_access.md R365). -/
def writingForms (rd a : BitVec 5) (csr : BitVec 12) : List Instr :=
  if a = 0 then [.csrrw rd a csr, .csrrwi rd a csr] else csrForms rd a csr

/-- The value that a writing form of a CSR instruction writes, of the register's old value (40_csr_access.md R376 to R381). -/
def writtenValue (s : State) (old : Word) : Instr → Word
  | .csrrw _ a _ => s.readX a
  | .csrrs _ a _ => old ||| s.readX a
  | .csrrc _ a _ => old &&& ~~~s.readX a
  | .csrrwi _ a _ => a.setWidth 64
  | .csrrsi _ a _ => old ||| a.setWidth 64
  | .csrrci _ a _ => old &&& ~~~(a.setWidth 64)
  | _ => old

/-- The CSR instructions that only read the register (40_csr_access.md R365). -/
def readingForms (rd : BitVec 5) (csr : BitVec 12) : List Instr :=
  [.csrrs rd 0 csr, .csrrc rd 0 csr, .csrrsi rd 0 csr, .csrrci rd 0 csr]

/-- The illegal-instruction exception of an instruction (30_encoding.md R346, 11_state_trap_csrs.md R155). -/
def raisesIllegal (i : Instr) (s : State) : Prop := exec i s = .next (s.raise 2 ((encode i).setWidth 64))

/-- A trap was taken into M-mode from s: what 60_exceptions.md R480 writes, and nothing else but the counters. -/
def enteredM (s t : State) (isInt : Bool) (code : Nat) (tval : Word) : Prop :=
  t.csr.mepc = s.legalizeEpc s.pc ∧
    t.csr.mcause = causeWord s.cfg.mxlen isInt code ∧
    t.csr.mtval = narrow s.cfg.mxlen (s.trapValue isInt code tval) ∧
    t.csr.mstatus = { s.csr.mstatus with
      mpie := s.csr.mstatus.mie, mie := false, mpp := s.priv, mdt := s.cfg.ext.smdbltrp || s.csr.mstatus.mdt,
      mpelp := t.csr.mstatus.mpelp } ∧
    t.priv = .m ∧ t.pc = trapTarget s.cfg.mxlen s.csr.mtvec isInt code ∧ t.wait = .running ∧
    t.reservation = s.reservation ∧ t.cnt.minstret = s.cnt.minstret ∧ landingPad .m s t ∧
    sameX s t ∧ sameBytes s t ∧ sameRest s t ∧ sameCsrs s t

/-- A trap was taken into S-mode from s (60_exceptions.md R481). -/
def enteredS (s t : State) (isInt : Bool) (code : Nat) (tval : Word) : Prop :=
  t.sup = { s.sup with
      sepc := s.legalizeEpc s.pc, scause := causeWord s.sxlen isInt code,
      stval := narrow s.cfg.mxlen (s.trapValue isInt code tval) } ∧
    t.csr.mstatus = { s.csr.mstatus with
      spie := s.csr.mstatus.sie, sie := false, spp := s.priv == .s, sdt := s.sdtActive || s.csr.mstatus.sdt,
      spelp := t.csr.mstatus.spelp } ∧
    t.priv = .s ∧ t.pc = widen s.cfg.mxlen s.sxlen (trapTarget s.sxlen s.sup.stvec isInt code) ∧ t.wait = .running ∧
    t.reservation = s.reservation ∧ t.cnt.minstret = s.cnt.minstret ∧ landingPad .s s t ∧
    sameX s t ∧ sameBytes s t ∧ sameBase s t ∧ t.rnmi = s.rnmi ∧ sameCsrs s t ∧ sameSaved s t

/-- A return to mode y at an address: the jump, the reservation, and what no return changes (42_trap_return.md R411,
R415). -/
def returned (s t : State) (y : Priv) (target : Word) : Prop :=
  t.priv = y ∧ t.pc = widen s.cfg.mxlen (t.xlenOf y) target ∧
    t.reservation = (if s.cfg.xretClearsReservation then none else s.reservation) ∧ counted s t ∧ t.wait = s.wait ∧
    landingPad y s t ∧ sameX s t ∧ sameBytes s t ∧ sameBase s t ∧ t.sup = s.sup ∧ sameCsrs s t ∧ sameSaved s t

/-- The word runs now: no reset, no critical error, no NMI, not stalled, no interrupt, no hardware error, after the
platform's part of the step (60_exceptions.md R510). -/
def runsNow (u : State) (p : PlatIn) : Prop :=
  p.reset = none ∧ u.criticalError = false ∧ u.nmiTaken p = false ∧ u.wait.stalled = false ∧
    u.pendingInterrupt = none ∧ p.hwError = none

/-! ### Invariants of every step -/

/-- Memory is in its canonical form. -/
def State.memoryOk (s : State) : Bool := Memory.wf s.mem

/-- The current mode is implemented (60_exceptions.md R520). -/
def State.modeOk (s : State) : Bool := s.modeExists s.priv

/-- With Smdbltrp, `MDT` = 1 implies `MIE` = 0 (10_state.md R72), and `MDT` is 0 below M-mode (60_exceptions.md R492). -/
def State.mdtOk (s : State) : Bool :=
  !s.cfg.ext.smdbltrp || ((!s.csr.mstatus.mdt || !s.csr.mstatus.mie) && (s.priv == .m || !s.csr.mstatus.mdt))

/-- The platform's vectors are 4-byte aligned (70_reset_and_hazards.md R554). -/
def vectorsAligned (c : Cfg) : Bool :=
  pairAt c.resetVector 0 == 0 && pairAt c.nmiVector 0 == 0 && pairAt c.rnmiVector 0 == 0

/-- `pc` is IALIGN-aligned (10_state.md R22). -/
def State.pcOk (s : State) : Bool := s.aligned s.pc

/-- What every step keeps. -/
def State.invariant (s : State) : Bool := s.memoryOk && s.modeOk && s.mdtOk && s.pcOk && vectorsAligned s.cfg

/-! ### Isolation and sticky state -/

/-- The machine-level registers that no U-mode instruction reaches, the counters and `mip.LCOFIP` apart, which counting
changes: of `mstatus` all but `FS` and `VS`, of `mip` the bits that software writes (60_exceptions.md R521). -/
def sameMachineState (s t : State) : Prop :=
  t.csr.mstatus = { s.csr.mstatus with fs := t.csr.mstatus.fs, vs := t.csr.mstatus.vs } ∧
    t.csr.seipSw = s.csr.seipSw ∧ t.csr.stip = s.csr.stip ∧ (s.input.irqSet = 0 → t.csr.platSw = s.csr.platSw) ∧
    (s.input.ssiSet = false → t.csr.ssip = s.csr.ssip) ∧ t.rnmi = s.rnmi ∧
  t.csr.misa = s.csr.misa ∧ t.csr.mtvec = s.csr.mtvec ∧ t.csr.medeleg = s.csr.medeleg ∧
    t.csr.mideleg = s.csr.mideleg ∧ t.csr.mie = s.csr.mie ∧ t.csr.mscratch = s.csr.mscratch ∧
    t.csr.mepc = s.csr.mepc ∧ t.csr.mcause = s.csr.mcause ∧ t.csr.mtval = s.csr.mtval ∧
    t.csr.mcounteren = s.csr.mcounteren ∧ t.csr.mcountinhibit = s.csr.mcountinhibit ∧
    t.csr.menvcfg = s.csr.menvcfg ∧ t.csr.mseccfg = s.csr.mseccfg ∧ t.pmp = s.pmp

/-! ### Harts without other extensions -/

/-- Some extension is on whose instructions are outside the source (93_implementation_defined.md A.3). -/
def State.mayExtend (s : State) : Bool :=
  s.extA || s.extB || s.extC || s.extD || s.extF || s.extM || s.extQ || s.extV || s.cfg.ext.zicbom ||
    s.cfg.ext.zicboz || s.cfg.ext.zicfiss || !s.cfg.ext.otherWords.isEmpty

/-! ### Runs -/

/-- A run of n steps that stops neither with a fault nor with a refusal. -/
def safeRun : Nat → State → Bool
  | 0, _ => true
  | n + 1, s => match step s with
    | .next t => safeRun n t
    | _ => false

end Sys2Proof.Machine
end

