-- ==== Sys2Proof/Certificates/Slice0/Obligations.lean ====
section
/-! DEFINITION. The statements for the provers. -/

section

open Sys2Proof Sys2Proof.Machine

/-! ### Encoding -/

/-- Every instruction of the table, with every operand its fields admit, decodes from its own word to itself. -/
def Obligations.DecodeEncode : Prop := ∀ i : Instr, decodeWord (encode i) = .ok i

/-- A word that decodes to an instruction is the word of that instruction: no bit of it is ignored. -/
def Obligations.EncodeDecode : Prop := ∀ (w : BitVec 32) (i : Instr), decodeWord w = .ok i → encode i = w

/-- The bytes of an instruction, followed by any others, decode to it and leave the others. -/
def Obligations.DecodeBytesEncodeBytes : Prop :=
  ∀ (i : Instr) (rest : List Byte), decodeBytes (encodeBytes i ++ rest) = .ok (i, rest)

/-- Words of spec/30_encoding.md R336 and 95_test_vectors.md. -/
def Obligations.DecodeSampleWords : Prop :=
  decodeWord 0x00000073 = .ok .ecall ∧ decodeWord 0x00100073 = .ok .ebreak ∧ decodeWord 0x30200073 = .ok .mret ∧
    decodeWord 0x10500073 = .ok .wfi ∧ decodeWord 0x12000073 = .ok (.sfenceVma 0 0) ∧
    decodeWord 0xFC000073 = .ok (.custom111111 0 0) ∧ decodeWord 0x00009002 = .ok .cEbreak ∧
    decodeWord 0x34029073 = .ok (.csrrw 0 5 0x340)

/-- A SYSTEM word with funct3 = 100 is reserved (R382), and executing it raises the illegal-instruction exception: that a
reserved word does is the spec's own choice (R345, 92_eei_decisions.md D8). The words of Zicfiss, on a hart that has it, are
apart (PRESUMED, log entry 18): below M-mode with `menvcfg.SSE` = 0 they retire and write 0 to `rd` (R185, R349). -/
def Obligations.Funct3FourIsReserved : Prop :=
  ∀ (w : BitVec 32) (s : State), opcodeOf w = systemOpcode → funct3Of w = 4 →
    (s.cfg.ext.zicfiss = false ∨ wordOfZicfiss w = false → s.runWord w = .next (s.illegal w)) ∧
    (s.cfg.ext.zicfiss = true → wordOfZicfiss w = true → s.priv ≠ .m → s.envcfg.sse = false →
      s.rvE = false ∨ (rdOf w).toNat < 16 → s.runWord w = .next (s.finish (rdOf w) 0))

/-! ### The step -/

/-- When the bytes at `pc` decode to an instruction and nothing comes before it, the step is that instruction on the
state after the platform's part of the step. -/
def Obligations.StepRunsDecodedInstruction : Prop :=
  ∀ (s : State) (w : BitVec 32) (i : Instr), runsNow (s.sampled s.input) s.input →
    (s.sampled s.input).fetch = .ok w → decodeWord w = .ok i → step s = exec i (s.sampled s.input)

/-- With no scheduled input the platform's part of a step only brings the pending bits up to date and advances the
counter of the free values (the model's choice, log entries 7, 8 and 29). -/
def Obligations.QuietSampling : Prop :=
  ∀ s : State, s.inputs = [] →
    s.sampled s.input = { s with
      plat := { s.plat with
        mtip := decide (s.plat.mtimecmp.toNat ≤ s.plat.mtime.toNat), msipSeen := s.plat.msip, timeSeen := s.plat.mtime }
      ctr := s.ctr + 1 }

/-- A fetch that may execute reads four bytes little-endian while IALIGN is 32; with IALIGN = 16 it reads two, and two
more if the low bits are 11. -/
def Obligations.FetchReadsLittleEndian : Prop :=
  ∀ (s : State),
    (s.extC = false → s.opCheck s.pcAddr.toNat 4 .fetch .plain s.priv = .pass →
      s.fetch = .ok (wordOfBytes (s.byteAt s.pcAddr.toNat) (s.byteAt (s.pcAddr.toNat + 1))
        (s.byteAt (s.pcAddr.toNat + 2)) (s.byteAt (s.pcAddr.toNat + 3)))) ∧
    (s.extC = true → s.opCheck s.pcAddr.toNat 2 .fetch .plain s.priv = .pass → isLong (s.byteAt s.pcAddr.toNat) = false →
      s.fetch = .ok ((halfOfBytes (s.byteAt s.pcAddr.toNat) (s.byteAt (s.pcAddr.toNat + 1))).setWidth 32)) ∧
    (s.extC = true → s.opCheck s.pcAddr.toNat 2 .fetch .plain s.priv = .pass → isLong (s.byteAt s.pcAddr.toNat) = true →
      s.opCheck (narrow s.xlen (s.pcAddr + 2)).toNat 2 .fetch .plain s.priv = .pass →
      s.fetch = .ok (wordOfBytes (s.byteAt s.pcAddr.toNat) (s.byteAt (s.pcAddr.toNat + 1))
        (s.byteAt (narrow s.xlen (s.pcAddr + 2)).toNat) (s.byteAt ((narrow s.xlen (s.pcAddr + 2)).toNat + 1))))

/-- An interrupt for M-mode, or a delegated one for S-mode, is taken between instructions: the saved pc is that of the
instruction that would have run, no instruction runs and none is counted. That it is taken in this very step, and never some
instructions later, is the spec's own decision D5 and the model's choice of log entry 29: R465 asks for a bounded time only.
The clauses on `SDT` are log entry 11, the layout of the S-mode registers is log entry 14. -/
def Obligations.InterruptIsTaken : Prop :=
  ∀ (s u : State) (i : Nat), u = s.sampled s.input → s.input.reset = none → u.criticalError = false →
    u.nmiTaken s.input = false → u.wait.stalled = false →
    (u.pendingInterrupt = some (false, i) → u.unexpected = false →
      ∃ t, step s = .next t ∧ enteredM u t true i 0) ∧
    (u.pendingInterrupt = some (true, i) → u.status.sdt = false →
      ∃ t, step s = .next t ∧ enteredS u t true i 0)

/-- Which interrupts trap to M-mode and which to S-mode, that one does whenever some interrupt may, that M-mode goes first,
and that none traps to M-mode from M-mode while `MDT` is set. -/
def Obligations.InterruptCondition : Prop :=
  ∀ s : State,
    (∀ i, s.pendingInterrupt = some (false, i) →
      (s.priv = .m ∧ s.csr.mstatus.mie = true ∨ s.priv ≠ .m) ∧ s.mipRead.getLsbD i = true ∧
        s.mieRead.getLsbD i = true ∧ (s.hasS = true → s.midelegRead.getLsbD i = false)) ∧
    ((s.priv = .m ∧ s.csr.mstatus.mie = true ∨ s.priv ≠ .m) →
      s.mipRead &&& s.mieRead &&& ~~~(if s.hasS then s.midelegRead else 0) ≠ 0 →
      ∃ i, s.pendingInterrupt = some (false, i)) ∧
    (s.mdtOk = true → s.cfg.ext.smdbltrp = true → s.csr.mstatus.mdt = true → s.priv = .m →
      ∀ i, s.pendingInterrupt ≠ some (false, i)) ∧
    (∀ i, s.pendingInterrupt = some (true, i) →
      s.hasS = true ∧ (s.priv = .s ∧ s.csr.mstatus.sie = true ∨ s.priv = .u) ∧ s.mipRead.getLsbD i = true ∧
        s.mieRead.getLsbD i = true ∧ s.midelegRead.getLsbD i = true ∧
        s.mipRead &&& s.mieRead &&& ~~~s.midelegRead = 0) ∧
    (s.hasS = true → (s.priv = .s ∧ s.csr.mstatus.sie = true ∨ s.priv = .u) →
      s.mipRead &&& s.mieRead &&& ~~~s.midelegRead = 0 → s.mipRead &&& s.mieRead &&& s.midelegRead ≠ 0 →
      ∃ i, s.pendingInterrupt = some (true, i))

/-- The priority MEI, MSI, MTI, SEI, SSI, STI, LCOFI where the platform has no interrupts of its own. -/
def Obligations.InterruptPriority : Prop :=
  ∀ (s : State) (set : Word) (before after : List Nat) (i : Nat), s.cfg.platIrqs = [] →
    [11, 3, 7, 9, 1, 5, 13] = before ++ i :: after → (∀ j ∈ before, set.getLsbD j = false) → set.getLsbD i = true →
    s.selectIrq set = some i

/-! ### CSR instructions -/

/-- A CSR instruction whose checks pass: `rd` takes the old value, no other integer register that the hart has now (under
RV32E and RV64E those below 16), no memory, no mode changes, and `pc` moves on, whichever register it is. -/
def Obligations.CsrInstructionFrame : Prop :=
  ∀ (s : State) (rd a : BitVec 5) (csr : BitVec 12) (n : CsrName) (i : Instr),
    i.wellFormed s.features = true → s.csrAt csr = some n →
    (i ∈ writingForms rd a csr ∧ s.csrAllowed n csr true = true ∨
      i ∈ readingForms rd csr ∧ s.csrAllowed n csr false = true) →
    ∃ t, exec i s = .next t ∧ t.xAt rd = rdValue s rd (s.csrRead n) ∧
      (∀ r : BitVec 5, r ≠ rd → s.rvE = false ∨ r.toNat < 16 → t.xAt r = s.xAt r) ∧ sameBytes s t ∧
      t.pc = widen s.cfg.mxlen s.xlen (s.pc + 4) ∧ t.priv = s.priv ∧ t.cfg = s.cfg ∧ t.plat = s.plat ∧
      t.wait = s.wait ∧ t.inputs = s.inputs

/-- CSRRW and CSRRWI on `mscratch`. -/
def Obligations.ScratchWrite : Prop :=
  ∀ (s : State) (rd a : BitVec 5), s.priv = .m → regExists s.features rd = true →
    (regExists s.features a = true → ∃ t, exec (.csrrw rd a 0x340) s = .next t ∧ scratchEffect s t rd (s.readX a)) ∧
    (∃ t, exec (.csrrwi rd a 0x340) s = .next t ∧ scratchEffect s t rd (a.setWidth 64))

/-- CSRRS and CSRRSI on `mscratch`; with `rs1` or the immediate 0 nothing is written. -/
def Obligations.ScratchSetBits : Prop :=
  ∀ (s : State) (rd a : BitVec 5), s.priv = .m → regExists s.features rd = true →
    (regExists s.features a = true → ∃ t, exec (.csrrs rd a 0x340) s = .next t ∧
      scratchEffect s t rd (if a = 0 then s.csr.mscratch else narrow s.cfg.mxlen s.csr.mscratch ||| s.readX a)) ∧
    (∃ t, exec (.csrrsi rd a 0x340) s = .next t ∧
      scratchEffect s t rd (if a = 0 then s.csr.mscratch else narrow s.cfg.mxlen s.csr.mscratch ||| a.setWidth 64))

/-- CSRRC and CSRRCI on `mscratch`; with `rs1` or the immediate 0 nothing is written. -/
def Obligations.ScratchClearBits : Prop :=
  ∀ (s : State) (rd a : BitVec 5), s.priv = .m → regExists s.features rd = true →
    (regExists s.features a = true → ∃ t, exec (.csrrc rd a 0x340) s = .next t ∧
      scratchEffect s t rd (if a = 0 then s.csr.mscratch else narrow s.cfg.mxlen s.csr.mscratch &&& ~~~s.readX a)) ∧
    (∃ t, exec (.csrrci rd a 0x340) s = .next t ∧
      scratchEffect s t rd (if a = 0 then s.csr.mscratch else narrow s.cfg.mxlen s.csr.mscratch &&& ~~~(a.setWidth 64)))

/-- A CSR instruction on a register that does not exist is illegal, whether or not it reads or writes. -/
def Obligations.NonexistentCsrIsIllegal : Prop :=
  ∀ (s : State) (rd a : BitVec 5) (csr : BitVec 12) (i : Instr), i ∈ csrForms rd a csr →
    ((∀ n, s.csrAt csr = some n → s.csrExists n = false) ∨ (csr = 0x14D ∧ s.cfg.ext.sstc = false) ∨
      (csr = 0x310 ∧ s.cfg.mxlen = .x64) ∨ (csr = 0x306 ∧ s.hasU = false) ∨
      ((csr = 0x302 ∨ csr = 0x303) ∧ s.hasS = false)) →
    raisesIllegal i s

/-- A CSR instruction below the privilege that bits 9:8 of the address ask for is illegal. -/
def Obligations.CsrPrivilegeIsChecked : Prop :=
  ∀ (s : State) (rd a : BitVec 5) (csr : BitVec 12) (i : Instr), i ∈ csrForms rd a csr →
    s.priv.code.toNat < (csr.extractLsb' 8 2).toNat → raisesIllegal i s

/-- A write of a register at a read-only address is illegal; a form that does not write reads it. -/
def Obligations.ReadOnlyCsr : Prop :=
  ∀ (s : State) (rd a : BitVec 5) (csr : BitVec 12) (i : Instr), csr.extractLsb' 10 2 = 3 →
    (i ∈ writingForms rd a csr → raisesIllegal i s) ∧
    (∀ n, i ∈ readingForms rd csr → regExists s.features rd = true → s.csrAt csr = some n → s.csrExists n = true →
      (csr.extractLsb' 8 2).toNat ≤ s.priv.code.toNat → s.csrSpecial false n = true →
      ∃ t, exec i s = .next t ∧ t.xAt rd = rdValue s rd (s.csrRead n) ∧ sameXBut rd s t ∧ sameBytes s t)

/-- The counter shadows: readable in M-mode always, in S-mode under `mcounteren`, in U-mode also under `scounteren`
where S-mode exists. -/
def Obligations.CounterAccess : Prop :=
  ∀ (s : State) (rd : BitVec 5) (csr : BitVec 12) (b : Nat) (high : Bool) (i : Instr),
    csrNamed csr = some (.shadow b high) → regExists s.features rd = true → i ∈ readingForms rd csr →
    (b = 1 → s.cfg.timeCsrImpl = false → raisesIllegal i s) ∧
    (s.csrExists (.shadow b high) = true →
      (s.priv = .m ∨ s.priv = .s ∧ s.mcounterenRead.getLsbD b = true ∨
        s.priv = .u ∧ s.mcounterenRead.getLsbD b = true ∧ (s.hasS = true → s.sup.scounteren.getLsbD b = true) →
        ∃ t, exec i s = .next t ∧ t.xAt rd = rdValue s rd (halfOf high (s.counterValue b)) ∧
          sameXBut rd s t ∧ sameBytes s t) ∧
      (¬(s.priv = .m ∨ s.priv = .s ∧ s.mcounterenRead.getLsbD b = true ∨
        s.priv = .u ∧ s.mcounterenRead.getLsbD b = true ∧ (s.hasS = true → s.sup.scounteren.getLsbD b = true)) →
        raisesIllegal i s))

/-- A write of `minstret` or `mcycle` wins over the count of the writing instruction, which reads the value before. -/
def Obligations.CounterWriteWins : Prop :=
  ∀ (s : State) (rd rs1 : BitVec 5), s.priv = .m → s.cfg.mxlen = .x64 → regExists s.features rd = true →
    regExists s.features rs1 = true →
    (∃ t, exec (.csrrw rd rs1 0xB02) s = .next t ∧ t.cnt.minstret = s.readX rs1 ∧
      t.xAt rd = rdValue s rd s.cnt.minstret ∧ sameXBut rd s t ∧ sameBytes s t ∧ sameRest s t ∧ sameCsrs s t) ∧
    (∃ t, exec (.csrrw rd rs1 0xB00) s = .next t ∧ t.cnt.mcycle = s.readX rs1 ∧ counted s t ∧
      t.xAt rd = rdValue s rd s.cnt.mcycle ∧ sameXBut rd s t ∧ sameBytes s t ∧ sameRest s t ∧ sameCsrs s t)

/-- `SEIP` in a read-modify-write of `mip`: `rd` shows the OR with the controller's signal, the signal is not part of
what is written, and MEIP, MTIP and MSIP are not changed. -/
def Obligations.SeipReadModifyWrite : Prop :=
  ∀ (s : State) (rd rs1 : BitVec 5), s.priv = .m → s.hasS = true → regExists s.features rd = true →
    regExists s.features rs1 = true → rd ≠ 0 → rs1 ≠ 0 →
    (∃ t, exec (.csrrs rd rs1 0x344) s = .next t ∧ (t.xAt rd).getLsbD 9 = (s.csr.seipSw || s.plat.sei) ∧
      t.csr.seipSw = (s.csr.seipSw || (s.readX rs1).getLsbD 9) ∧ t.mipRead &&& 0x888 = s.mipRead &&& 0x888) ∧
    (∃ t, exec (.csrrc rd rs1 0x344) s = .next t ∧ (t.xAt rd).getLsbD 9 = (s.csr.seipSw || s.plat.sei) ∧
      t.csr.seipSw = (s.csr.seipSw && !(s.readX rs1).getLsbD 9) ∧ t.mipRead &&& 0x888 = s.mipRead &&& 0x888) ∧
    (∃ t, exec (.csrrw rd rs1 0x344) s = .next t ∧ (t.xAt rd).getLsbD 9 = (s.csr.seipSw || s.plat.sei) ∧
      t.csr.seipSw = (s.readX rs1).getLsbD 9 ∧ t.mipRead &&& 0x888 = s.mipRead &&& 0x888)

/-- `MDT` as it reads after reset, 1 with Smdbltrp and else read-only 0, and after a CSR write; how it keeps `MIE` clear. -/
def Obligations.MdtClearsMie : Prop :=
  (∀ c : Cfg, (State.resetFor c).status.mdt = c.ext.smdbltrp) ∧
  ∀ (s : State) (w : Word), s.cfg.ext.smdbltrp = true →
    (s.cfg.mxlen = .x64 →
      (s.csrWrite w .mstatus).csr.mstatus.mdt = w.getLsbD 42 ∧
      (s.csrWrite w .mstatus).csr.mstatus.mie = (w.getLsbD 3 && !w.getLsbD 42)) ∧
    (s.cfg.mxlen = .x32 →
      (s.csrWrite w .mstatus).csr.mstatus.mdt = s.csr.mstatus.mdt ∧
      (s.csrWrite w .mstatus).csr.mstatus.mie = (w.getLsbD 3 && !s.csr.mstatus.mdt) ∧
      (s.csrWrite w .mstatush).csr.mstatus.mdt = w.getLsbD 10 ∧
      (s.csrWrite w .mstatush).csr.mstatus.mie = (s.csr.mstatus.mie && !w.getLsbD 10))

/-- A write of `mtvec` under the reference legaliser takes the written BASE; a reserved MODE keeps the old one
(92_eei_decisions.md D11: the spec's own decision, not the source's). -/
def Obligations.MtvecWrite : Prop :=
  ∀ (s : State) (rd rs1 : BitVec 5), s.priv = .m → s.cfg.kind .mtvec = .ref → regExists s.features rd = true →
    regExists s.features rs1 = true →
    ∃ t, exec (.csrrw rd rs1 0x305) s = .next t ∧
      t.csr = { s.csr with mtvec := t.csr.mtvec, lcofip := t.csr.lcofip } ∧
      t.csr.mtvec &&& ~~~3#64 = s.readX rs1 &&& ~~~3#64 ∧ t.csr.mtvec.getLsbD 1 = false ∧
      t.csr.mtvec.getLsbD 0 = (if (s.readX rs1).getLsbD 1 then s.csr.mtvec.getLsbD 0 else (s.readX rs1).getLsbD 0) ∧
      t.xAt rd = rdValue s rd s.csr.mtvec ∧ sameXBut rd s t ∧ sameBytes s t ∧ sameRest s t ∧ retired4 s t

/-- The low bit of `mepc` is always zero, and with IALIGN=32 alone the low two bits: a write leaves them so, and every step
keeps them so (R143). A write stores the other bits of every valid address and, but for another legaliser, of any value
(R145; what is valid and which legalisers there are is the model's choice, log entry 32). -/
def Obligations.MepcLowBitsZero : Prop :=
  (∀ (s : State) (w : Word), (s.csrWrite w .mepc).csr.mepc.getLsbD 0 = false ∧
    (s.cfg.extC = false → (s.csrWrite w .mepc).csr.mepc.getLsbD 1 = false) ∧
    (s.cfg.kind .mepc ≠ .impl ∨ validAddress s.cfg (clearEpcLow s.cfg (narrow s.cfg.mxlen w)) = true →
      (s.csrWrite w .mepc).csr.mepc = narrow s.cfg.mxlen w &&& ~~~(if s.cfg.extC then 1#64 else 3#64))) ∧
  ∀ s t : State, s.csr.mepc.getLsbD 0 = false → (s.cfg.extC = false → s.csr.mepc.getLsbD 1 = false) →
    step s = .next t → t.csr.mepc.getLsbD 0 = false ∧ (t.cfg.extC = false → t.csr.mepc.getLsbD 1 = false)

/-- A write of `misa` that would leave the next instruction unaligned is suppressed whole and still retires. -/
def Obligations.MisaWriteSuppressed : Prop :=
  ∀ (s : State) (rd a : BitVec 5) (i : Instr) (w : BitVec 26), s.priv = .m → s.cfg.misaImpl = true →
    i ∈ writingForms rd a 0x301 → i.wellFormed s.features = true → w = (writtenValue s s.misaRead i).setWidth 26 →
    ∃ t, exec i s = .next t ∧ retired4 s t ∧ t.xAt rd = rdValue s rd s.misaRead ∧
      t.csr.misa =
        (if (s.legalizeMisa w).getLsbD 2 = false ∧ s.csr.misa.getLsbD 2 = true ∧ (s.pc + 4).getLsbD 1 = true then
          s.csr.misa
        else s.legalizeMisa w)

/-- The floating-point CSRs are illegal without F or with FS Off; a CSRRW of `fflags`, `frm` or `fcsr` stores its bits of
`fcsr`, makes FS Dirty if it changes them, and changes nothing else (layout PRESUMED, log entry 15). -/
def Obligations.FloatCsrAccess : Prop :=
  ∀ (s : State) (rd rs1 : BitVec 5),
    (∀ (csr : BitVec 12) (i : Instr), csr = 1 ∨ csr = 2 ∨ csr = 3 → i ∈ csrForms rd rs1 csr →
      s.extF = false ∨ s.status.fs = 0 → raisesIllegal i s) ∧
    (s.extF = true → s.status.fs ≠ 0 → regExists s.features rd = true → regExists s.features rs1 = true →
      (∃ t, exec (.csrrw rd rs1 1) s = .next t ∧
        floatEffect s t rd (s.units.fcsr &&& 0xE0 ||| ((s.readX rs1).setWidth 8 &&& 0x1F))
          (s.units.fcsr.setWidth 64 &&& 0x1F)) ∧
      (∃ t, exec (.csrrw rd rs1 2) s = .next t ∧
        floatEffect s t rd (s.units.fcsr &&& 0x1F ||| ((s.readX rs1).setWidth 8 <<< 5)) (s.units.fcsr.setWidth 64 >>> 5)) ∧
      ∃ t, exec (.csrrw rd rs1 3) s = .next t ∧ floatEffect s t rd ((s.readX rs1).setWidth 8) (s.units.fcsr.setWidth 64))

/-! ### Traps -/

/-- A trap into M-mode: delivered as the spec writes it; with `MDT` set, or in M-mode with `NMIE` clear, it is unexpected,
and goes to the RNMI handler where one can take it (log entry 13; that `MPELP` and `SPELP` stay there is the model's choice, log
entry 12), else to the critical-error state with nothing else changed. -/
def Obligations.TrapIntoMachineMode : Prop :=
  ∀ (s : State) (isInt : Bool) (code : Nat) (tval : Word),
    (s.cfg.ext.smdbltrp = false ∨
        s.csr.mstatus.mdt = false ∧ (s.cfg.ext.smrnmi = false ∨ s.priv ≠ .m ∨ s.rnmi.nmie = true) →
      enteredM s (s.trapM isInt code tval) isInt code tval) ∧
    (s.cfg.ext.smdbltrp = true → s.csr.mstatus.mdt = true → s.cfg.ext.smrnmi = true → s.rnmi.nmie = true →
      s.trapM isInt code tval = { s with
        rnmi := { mnepc := s.pc, mncause := causeWord s.cfg.mxlen isInt code, mnpp := .m, nmie := false }
        priv := .m, pc := narrow s.cfg.mxlen s.cfg.rnmiVector, wait := .running
        elp := (s.trapM isInt code tval).elp } ∧ landingPad .m s (s.trapM isInt code tval)) ∧
    (s.cfg.ext.smdbltrp = true →
      s.csr.mstatus.mdt = true ∧ (s.cfg.ext.smrnmi = false ∨ s.rnmi.nmie = false) ∨
        s.cfg.ext.smrnmi = true ∧ s.priv = .m ∧ s.rnmi.nmie = false →
      s.trapM isInt code tval = { s with criticalError := true })

/-- A synchronous exception goes to S-mode if it is raised below M-mode and delegated, else to M-mode. That `stval` takes the
value `mtval` would, under the same policy, is the model's choice, log entry 38 (R481 says only: the trap value or 0); the
clauses on `SDT` are log entry 11, the layout of `stvec` and `scause` is log entry 14. -/
def Obligations.ExceptionTargetMode : Prop :=
  ∀ (s : State) (code : Nat) (tval : Word),
    (s.hasS = true → s.priv ≠ .m → s.medelegRead.getLsbD code = true → s.status.sdt = false →
      enteredS s (s.raise code tval) false code tval) ∧
    (s.hasS = false ∨ s.priv = .m ∨ s.medelegRead.getLsbD code = false → s.unexpected = false →
      enteredM s (s.raise code tval) false code tval)

/-- ECALL: the exception of the current mode with a trap value of zero and nothing else; delivered to M-mode or, where
delegated, to S-mode, the saved pc is its own and it is not counted (`SDT` in S-mode and the S-mode registers' layout:
log entries 11 and 14). -/
def Obligations.Ecall : Prop :=
  ∀ (s : State) (code : Nat),
    s.priv = .u ∧ code = 8 ∨ s.priv = .s ∧ code = 9 ∨ s.priv = .m ∧ code = 11 →
    exec .ecall s = .next (s.raise code 0) ∧
    (s.delegated code = false → s.unexpected = false → ∃ t, exec .ecall s = .next t ∧ enteredM s t false code 0 ∧
      t.csr.mtval = 0) ∧
    (s.delegated code = true → s.status.sdt = false → ∃ t, exec .ecall s = .next t ∧ enteredS s t false code 0)

/-- EBREAK, and C.EBREAK where C is enabled, not delegated (`ExceptionTargetMode` has the delegated one), raise a breakpoint
exception whose trap value is zero or the address of the instruction. That under a narrow XLEN this address is zero-extended to
MXLEN, while `mepc` takes the sign-extended pc, is the model's choice, log entry 21 (R403 states no extension). -/
def Obligations.Ebreak : Prop :=
  ∀ s : State, s.delegated 3 = false → s.unexpected = false →
    (∃ t, exec .ebreak s = .next t ∧ enteredM s t false 3 s.pcAddr ∧
      (t.csr.mtval = 0 ∨ t.csr.mtval = narrow s.cfg.mxlen s.pcAddr)) ∧
    (s.extC = true → exec .cEbreak s = exec .ebreak s) ∧
    (s.extC = false → raisesIllegal .cEbreak s)

/-- The trap target: BASE, or BASE plus four times the cause of an interrupt in Vectored mode. -/
def Obligations.VectoredTrapTarget : Prop :=
  ∀ (s : State) (isInt : Bool) (code : Nat) (tval : Word), s.unexpected = false →
    ((s.csr.mtvec.getLsbD 0 = false ∨ isInt = false) → (s.trapM isInt code tval).pc = s.csr.mtvec &&& ~~~3#64) ∧
    (s.csr.mtvec.getLsbD 1 = false → s.csr.mtvec.getLsbD 0 = true →
      (s.trapM true code tval).pc =
        narrow s.cfg.mxlen ((s.csr.mtvec &&& ~~~3#64) + 4 * BitVec.ofNat 64 code) ∧
      (s.trapM true 7 tval).pc = narrow s.cfg.mxlen ((s.csr.mtvec &&& ~~~3#64) + 0x1c))

/-- An ECALL in M-mode with `MDT` set and no Smrnmi: the critical-error state, and no architectural state updated. -/
def Obligations.EcallWithMdtIsCritical : Prop :=
  ∀ s : State, s.cfg.ext.smdbltrp = true → s.cfg.ext.smrnmi = false → s.priv = .m → s.csr.mstatus.mdt = true →
    exec .ecall s = .next { s with criticalError := true }

/-- The critical-error state is absorbing until reset: the hart's state stays, `mcycle` and `minstret` apart (that the
event counters and selectors stay is the model's choice, log entry 26). -/
def Obligations.CriticalErrorAbsorbs : Prop :=
  ∀ s : State, s.criticalError = true → s.input.reset = none →
    ∃ t, step s = .next t ∧ t.criticalError = true ∧ t.priv = s.priv ∧ t.pc = s.pc ∧ t.x = s.x ∧ t.csr = s.csr ∧
      t.sup = s.sup ∧ t.rnmi = s.rnmi ∧ t.units = s.units ∧ t.pmp = s.pmp ∧ t.wait = s.wait ∧
      t.reservation = s.reservation ∧ t.elp = s.elp ∧ t.cnt.hpmcounter = s.cnt.hpmcounter ∧
      t.cnt.hpmevent = s.cnt.hpmevent

/-- A non-maskable interrupt of a hart without Smrnmi: taken whatever the interrupt enables say; `mtval` stays. The push of the
`mstatus` stack is the spec's decision D27. Two clauses are the model's choices: that no counter moves in this step under
`MCYCLE_STEP` one (log entries 30 and 39, decision D20), and that in the wait of a limited WFI the saved pc is the WFI's own and
the WFI does not retire (log entry 9). -/
def Obligations.NonMaskableInterrupt : Prop :=
  ∀ (s u : State), u = s.sampled s.input → s.input.reset = none → u.criticalError = false → s.input.nmi = true →
    u.cfg.nmiImpl = true → u.cfg.ext.smrnmi = false →
    (u.cfg.ext.smdbltrp = true → u.csr.mstatus.mdt = true → step s = .next { u with criticalError := true }) ∧
    (u.cfg.ext.smdbltrp = false ∨ u.csr.mstatus.mdt = false →
      ∃ t, step s = .next t ∧ t.csr.mepc = u.legalizeEpc u.pc ∧
        t.csr.mcause = narrow u.cfg.mxlen u.cfg.nmiCause ∧ t.csr.mtval = u.csr.mtval ∧
        t.csr.mstatus = { u.csr.mstatus with
          mpie := u.csr.mstatus.mie, mie := false, mpp := u.priv, mdt := u.cfg.ext.smdbltrp || u.csr.mstatus.mdt,
          mpelp := t.csr.mstatus.mpelp } ∧
        t.priv = .m ∧ t.pc = narrow u.cfg.mxlen u.cfg.nmiVector ∧ t.wait = .running ∧
        t.cnt.minstret = u.cnt.minstret ∧ (u.cfg.mcycleStep = .one → t.cnt = u.cnt) ∧ landingPad .m u t ∧
        sameX u t ∧ sameBytes u t ∧ sameRest u t ∧ sameCsrs u t ∧ t.reservation = u.reservation)

/-! ### Returns -/

/-- MRET: illegal below M-mode; in M-mode it pops the machine-level stack and goes to `mepc`. -/
def Obligations.Mret : Prop :=
  ∀ s : State,
    (s.priv ≠ .m → raisesIllegal .mret s) ∧
    (s.priv = .m → ∃ t, exec .mret s = .next t ∧ returned s t s.mppSeen (s.epcMasked s.csr.mepc) ∧ t.rnmi = s.rnmi ∧
      t.csr.mstatus = { s.csr.mstatus with
        mie := s.csr.mstatus.mpie
        mpie := true
        mpp := if s.hasU then .u else .m
        mprv := if s.mppSeen = .m then s.csr.mstatus.mprv else false
        mdt := if s.cfg.ext.smdbltrp then false else s.csr.mstatus.mdt
        sdt := if s.sdtActive = true ∧ s.mppSeen = .u then false else s.csr.mstatus.sdt
        mpelp := t.csr.mstatus.mpelp })

/-- SRET: illegal without S-mode, in U-mode, and in S-mode with `TSR` set; else it pops the supervisor-level stack. -/
def Obligations.Sret : Prop :=
  ∀ s : State,
    (s.hasS = false ∨ s.priv = .u ∨ s.priv = .s ∧ s.csr.mstatus.tsr = true → raisesIllegal .sret s) ∧
    (s.hasS = true → s.priv = .m ∨ s.priv = .s ∧ s.csr.mstatus.tsr = false →
      ∃ t, exec .sret s = .next t ∧ returned s t (if s.csr.mstatus.spp then .s else .u) (s.epcMasked s.sup.sepc) ∧
        t.rnmi = s.rnmi ∧
        t.csr.mstatus = { s.csr.mstatus with
          sie := s.csr.mstatus.spie
          spie := true
          spp := false
          mprv := false
          mdt := if s.cfg.ext.smdbltrp = true ∧ s.priv = .m then false else s.csr.mstatus.mdt
          sdt := if s.sdtActive = true ∧ s.csr.mstatus.spp = false then false else s.csr.mstatus.sdt
          spelp := t.csr.mstatus.spelp })

/-- MNRET: with Smrnmi, in M-mode, it returns to the saved mode and clears `MDT` if that is not M (registers beyond that
PRESUMED, log entry 13; that `MPELP` and `SPELP` stay is the model's choice, log entry 12); otherwise it is illegal. -/
def Obligations.Mnret : Prop :=
  ∀ s : State,
    (s.cfg.ext.smrnmi = false ∨ s.priv ≠ .m → raisesIllegal .mnret s) ∧
    (s.cfg.ext.smrnmi = true → s.priv = .m → s.modeExists s.rnmi.mnpp = true →
      ∃ t, exec .mnret s = .next t ∧ returned s t s.rnmi.mnpp (s.epcMasked s.rnmi.mnepc) ∧
        t.rnmi = { s.rnmi with nmie := true } ∧
        t.csr.mstatus = { s.csr.mstatus with
          mprv := if s.rnmi.mnpp = .m then s.csr.mstatus.mprv else false
          mdt := if s.cfg.ext.smdbltrp = true ∧ s.rnmi.mnpp ≠ .m then false else s.csr.mstatus.mdt
          sdt := if s.sdtActive = true ∧ s.rnmi.mnpp = .u then false else s.csr.mstatus.sdt })

/-- A return never raises an instruction-address-misaligned exception: `mepc` reads with its low bits masked, the target
is aligned and no cause is written (R418 for MRET and SRET; for MNRET PRESUMED, log entry 13). -/
def Obligations.ReturnTargetIsAligned : Prop :=
  (∀ s : State, (s.csrRead .mepc).getLsbD 0 = false ∧ (s.extC = false → (s.csrRead .mepc).getLsbD 1 = false)) ∧
  ∀ (s : State) (i : Instr),
    i = .mret ∧ s.priv = .m ∨ i = .sret ∧ s.hasS = true ∧ (s.priv = .m ∨ s.priv = .s ∧ s.csr.mstatus.tsr = false) ∨
      i = .mnret ∧ s.cfg.ext.smrnmi = true ∧ s.priv = .m →
    ∃ t, exec i s = .next t ∧ t.aligned t.pc = true ∧ t.csr.mcause = s.csr.mcause ∧ t.sup.scause = s.sup.scause

/-! ### WFI -/

/-- WFI: where it may wait it retires and does not stay stalled under a wake-up; where it is not available, or may wait
only for a limit of zero, it is illegal; under a limit it retires under a wake-up. With limit zero it raises at once, also under
a wake-up: the source allows that in so many words for `TW` = 1 below M-mode; for U-mode where S-mode is implemented it is the
spec's own choice, decision D26 (R423 marks it so). -/
def Obligations.WaitForInterrupt : Prop :=
  ∀ s : State,
    (s.priv = .m ∨ s.status.tw = false ∧ (s.priv = .s ∨ s.hasS = false ∧ s.cfg.wfiInU = true) →
      ∃ t, exec .wfi s = .next t ∧ onlyRetired s t ∧ (s.wake = true ∨ s.cfg.wfiKind = .nop → t.wait = .running)) ∧
    (s.priv = .u → s.hasS = false → s.cfg.wfiInU = false → raisesIllegal .wfi s) ∧
    (s.priv ≠ .m → s.status.tw = true ∨ s.priv = .u ∧ s.hasS = true → s.cfg.twLimit = 0 → raisesIllegal .wfi s) ∧
    (s.priv ≠ .m → s.status.tw = true ∨ s.priv = .u ∧ s.hasS = true → s.cfg.twLimit ≠ 0 → s.wfiAbsent = false →
      s.wake = true → ∃ t, exec .wfi s = .next t ∧ onlyRetired s t ∧ t.wait = .running)

/-- A stalled hart resumes under a wake-up: an interrupt for M-mode, or a delegated one for S-mode (`SDT`: log entry 11), is
taken with the saved pc behind the WFI; without one the instruction there runs. That it resumes, and takes the interrupt or runs
the instruction, in this very step is the spec's own decision D5 (R510) and the model's choice of log entries 9 and 29: R422
gives a bounded but unspecified time only. The layout of the S-mode registers is log entry 14. -/
def Obligations.StalledHartResumes : Prop :=
  ∀ (s u : State), u = s.sampled s.input → s.input.reset = none → u.criticalError = false →
    u.nmiTaken s.input = false → u.wait = { stalled := true, timer := none } → u.wake = true →
    (∀ i, u.pendingInterrupt = some (false, i) → u.unexpected = false →
      ∃ t, step s = .next t ∧ enteredM u t true i 0) ∧
    (∀ i, u.pendingInterrupt = some (true, i) → u.status.sdt = false →
      ∃ t, step s = .next t ∧ enteredS u t true i 0) ∧
    (∀ (w : BitVec 32) (i : Instr), u.pendingInterrupt = none → s.input.hwError = none → u.fetch = .ok w →
      decodeWord w = .ok i → step s = exec i (u.setWait .running))

/-! ### Fences and custom words -/

/-- SFENCE.VMA and SINVAL.VMA: reserved without their extension, illegal in U-mode and in S-mode with `TVM` set; else
they only retire. -/
def Obligations.SupervisorFences : Prop :=
  ∀ (s : State) (rs1 rs2 : BitVec 5),
    (s.hasS = false ∨ s.priv = .u ∨ s.priv = .s ∧ s.csr.mstatus.tvm = true → raisesIllegal (.sfenceVma rs1 rs2) s) ∧
    (s.hasS = false ∨ s.cfg.ext.svinval = false ∨ s.priv = .u ∨ s.priv = .s ∧ s.csr.mstatus.tvm = true →
      raisesIllegal (.sinvalVma rs1 rs2) s) ∧
    (s.hasS = true → s.priv = .m ∨ s.priv = .s ∧ s.csr.mstatus.tvm = false → regExists s.features rs1 = true →
      regExists s.features rs2 = true →
      (∃ t, exec (.sfenceVma rs1 rs2) s = .next t ∧ onlyRetired s t ∧ t.wait = s.wait) ∧
      (s.cfg.ext.svinval = true → ∃ t, exec (.sinvalVma rs1 rs2) s = .next t ∧ onlyRetired s t ∧ t.wait = s.wait))

/-- `menvcfg.FIOM` widens the sets of a FENCE below M-mode; a FENCE word only retires. -/
def Obligations.FenceUnderFiom : Prop :=
  ∀ (s : State) (f : FenceSet) (w : BitVec 32),
    (s.priv ≠ .m → s.envcfg.fiom = true → s.fenceSet f =
      { input := f.input, output := f.output, reads := f.reads || f.input, writes := f.writes || f.output }) ∧
    (s.priv = .m ∨ s.envcfg.fiom = false → s.fenceSet f = f) ∧
    (opcodeOf w = 0b0001111 → funct3Of w = 0 → ∃ t, s.baseExec w = .next t ∧ onlyRetired s t ∧ t.wait = s.wait)

/-- The eight custom SYSTEM rows: reserved, hence illegal, where the implementation defines nothing; where it defines the
word, the exception with a custom code or the new state that it gives (a free value, log entry 19), no store visible but
under an access fault, and illegal where it reads or modifies a unit that is Off. A new state keeps the mode, the memory but
for the stores, the platform and an aligned `pc`; only an access to incoherent memory stops (log entry 28). -/
def Obligations.CustomWords : Prop :=
  ∀ (s : State) (hi : BitVec 11) (lo : BitVec 5) (i : Instr),
    i ∈ [.custom100011 hi lo, .custom110011 hi lo, .custom100111 hi lo, .custom110111 hi lo, .custom101011 hi lo,
      .custom111011 hi lo, .custom101111 hi lo, .custom111111 hi lo] →
    (i.wellFormed s.features = false → raisesIllegal i s ∧
      (s.delegated 2 = false → s.unexpected = false →
        ∃ t, exec i s = .next t ∧ enteredM s t false 2 ((encode i).setWidth 64))) ∧
    (i.wellFormed s.features = true →
      exec i s = (match Config.customExec (encode i) s.ctr with
        | .undefined => .next (s.raise 2 ((encode i).setWidth 64))
        | .raises code tval => .next (s.raise (customCode code) (narrow s.cfg.mxlen tval))
        | .retires e =>
          if s.customAllowed e then State.onAccess (s.customAccesses e) (fun t => t.customRetire e)
          else .next (s.raise 2 ((encode i).setWidth 64))) ∧
      ((∀ r ∈ s.cfg.pma, r.coherent = true) → ∃ t, exec i s = .next t)) ∧
    (∀ n, 24 ≤ customCode n ∧ customCode n ≤ 31 ∨ 48 ≤ customCode n ∧ customCode n ≤ 63) ∧
    (∀ (e : CustomEffect) (t : State) (c : Nat) (v : Word), s.customAccesses e = .exc t c v → c ≠ 7 → t = s) ∧
    (∀ (e : CustomEffect) (u : StateUnit), s.unitOn u = false →
      (u, .read) ∈ e.units ∨ (u, .modify) ∈ e.units ∨ (u, .unconfigure) ∈ e.units → s.customAllowed e = false) ∧
    ∀ e : CustomEffect, sameBytes s (s.customRetire e) ∧ (s.customRetire e).priv = s.priv ∧
      (s.customRetire e).cfg = s.cfg ∧ (s.customRetire e).plat = s.plat ∧ (s.customRetire e).wait = s.wait ∧
      (s.customRetire e).inputs = s.inputs ∧
      (s.customRetire e).aligned (s.customRetire e).pc = true

/-! ### Memory -/

/-- A store to memory puts its bytes in the order of the effective mode and leaves every other byte and all else. -/
def Obligations.StoreWritesItsBytes : Prop :=
  ∀ (s : State) (ea v : Word) (n : Nat), n = 1 ∨ n = 2 ∨ n = 4 ∨ n = 8 →
    (∀ a ∈ s.accessAddrs ea n, deviceAt s.cfg a = none) → s.accessVerdict ea n .write .plain = .pass →
    ∃ t, s.memWrite ea n v .plain = .ok t ∧ t = { s with mem := t.mem } ∧
      (∀ k, k < n → t.byteAt (s.effAddr (ea + BitVec.ofNat 64 k)).toNat =
        v.extractLsb' (8 * (if s.bigEndian s.effPriv then n - 1 - k else k)) 8) ∧
      (∀ a, a ∉ s.accessAddrs ea n → t.byteAt a = s.byteAt a)

/-- A load of what was just stored gives it back, whatever the byte order. -/
def Obligations.LoadAfterStore : Prop :=
  ∀ (s t : State) (ea v : Word) (n : Nat), n = 1 ∨ n = 2 ∨ n = 4 ∨ n = 8 →
    (∀ a ∈ s.accessAddrs ea n, deviceAt s.cfg a = none) → s.memWrite ea n v .plain = .ok t →
    t.accessVerdict ea n .read .plain = .pass →
    t.memRead ea n .plain = .ok (BitVec.ofNat 64 (v.toNat % 2 ^ (8 * n)))

/-- Where every misaligned access raises address-misaligned first, a misaligned load raises code 4 and a misaligned
store code 6 with the address; one that touches a memory-mapped register raises an access fault, code 5 or 7 (the spec's
decision D18), with the address of the first byte there; memory is not accessed. That R153's portion is that first byte is the
model's reading, log entry 22, and that the address is zero-extended to MXLEN under a narrow XLEN its choice, log entry 21. -/
def Obligations.MisalignedAccessRaises : Prop :=
  ∀ (s : State) (ea v : Word) (n : Nat), (s.effAddr ea).toNat % n ≠ 0 →
    (∀ b, (s.accessAddrs ea n).find? (fun a => (deviceAt s.cfg a).isSome) = some b →
      s.memRead ea n .plain = .exc s 5 (asTval b) ∧ s.memWrite ea n v .plain = .exc s 7 (asTval b)) ∧
    ((∀ a ∈ s.accessAddrs ea n, deviceAt s.cfg a = none) → s.cfg.misalignedKind = .raiseMisaligned →
      s.cfg.misalignedFirst = true → inGranule s.cfg (s.effAddr ea).toNat n = false →
      s.memRead ea n .plain = .exc s 4 (s.effAddr ea) ∧ s.memWrite ea n v .plain = .exc s 6 (s.effAddr ea))

/-- The PMP check without Smepmp: no entry, no match, all entries off, a partial match, the permissions of the first
match. -/
def Obligations.PmpCheck : Prop :=
  ∀ (s : State) (a n : Nat) (ty : AccessType) (ep : Priv), s.seccfg.mml = false → s.seccfg.mmwp = false →
    (s.cfg.pmpN = .none → s.pmpCheck a n ty ep = true) ∧
    (s.cfg.pmpN ≠ .none → (∀ i, i < s.cfg.pmpN.num → ∀ b, a ≤ b → b < a + n → s.pmpMatches i b = false) →
      s.pmpCheck a n ty ep = (ep == .m)) ∧
    (s.cfg.pmpN ≠ .none → (∀ i, i < s.cfg.pmpN.num → (s.pmpEntry i).cfg.a = .off) → ep ≠ .m →
      s.pmpCheck a n ty ep = false) ∧
    (∀ i, i < s.cfg.pmpN.num → (∀ j, j < i → ∀ b, a ≤ b → b < a + n → s.pmpMatches j b = false) →
      (∃ b, a ≤ b ∧ b < a + n ∧ s.pmpMatches i b = true) →
      ((∃ b, a ≤ b ∧ b < a + n ∧ s.pmpMatches i b = false) → s.pmpCheck a n ty ep = false) ∧
      ((∀ b, a ≤ b → b < a + n → s.pmpMatches i b = true) →
        s.pmpCheck a n ty ep = ((!(s.pmpEntry i).cfg.l && ep == .m) || permits (s.pmpEntry i).cfg ty)))

/-- A TOR entry matches the words from the preceding `pmpaddr` up to its own, entry 0 from zero; the low G bits of both
do not count. -/
def Obligations.PmpTorRange : Prop :=
  ∀ (s : State) (i a : Nat), (s.pmpEntry i).cfg.a = .tor →
    (s.pmpMatches i a = true ↔
      (if i = 0 then 0 else (s.pmpaddrRead (i - 1)).toNat / 2 ^ s.cfg.pmpG * 2 ^ s.cfg.pmpG) ≤ a / 4 ∧
        a / 4 < (s.pmpaddrRead i).toNat / 2 ^ s.cfg.pmpG * 2 ^ s.cfg.pmpG)

/-- A NAPOT entry whose `pmpaddr` ends in k one bits above which stands a zero matches 2^(k+3) bytes from the aligned
base; an NA4 entry matches its four bytes. -/
def Obligations.PmpNapotRange : Prop :=
  ∀ (s : State) (i a k : Nat),
    ((s.pmpEntry i).cfg.a = .napot → k < 64 → (s.pmpaddrRead i).toNat % 2 ^ (k + 1) = 2 ^ k - 1 →
      (s.pmpMatches i a = true ↔
        (s.pmpaddrRead i).toNat / 2 ^ (k + 1) * 2 ^ (k + 3) ≤ a ∧
          a < (s.pmpaddrRead i).toNat / 2 ^ (k + 1) * 2 ^ (k + 3) + 2 ^ (k + 3))) ∧
    ((s.pmpEntry i).cfg.a = .na4 → s.cfg.pmpG = 0 →
      (s.pmpMatches i a = true ↔ (s.pmpaddrRead i).toNat * 4 ≤ a ∧ a < (s.pmpaddrRead i).toNat * 4 + 4))

/-- Writes to a locked entry's configuration and address are ignored, and to the address below a locked TOR entry. -/
def Obligations.LockedPmpWritesIgnored : Prop :=
  ∀ (s : State) (i : Nat) (w : Word), s.pmpLocked i = true →
    (∀ k, (s.pmpcfgWrite k w).pmpEntry i = s.pmpEntry i) ∧ s.pmpaddrWrite i w = s ∧
    (∀ j, i = j + 1 → (s.pmpEntry i).cfg.a = .tor → s.pmpaddrWrite j w = s)

/-- `mip` of a hart with no lag: MTIP is the comparison of `mtime` and `mtimecmp`, MSIP bit 0 of `msip`, MEIP the
controller's level. -/
def Obligations.MachinePendingBits : Prop :=
  ∀ s : State, s.cfg.zeroLag = true →
    (s.mipRead.getLsbD 7 = true ↔ s.plat.mtimecmp.toNat ≤ s.plat.mtime.toNat) ∧
    s.mipRead.getLsbD 3 = (s.cfg.msipImpl && s.plat.msip) ∧ s.mipRead.getLsbD 11 = s.plat.mei

/-! ### The whole machine -/

/-- A locked PMP entry stays as it is, and locked, in every step that is no reset. -/
def Obligations.LockedPmpEntriesStay : Prop :=
  ∀ (s t : State) (i : Nat), s.pmpLocked i = true → s.input.reset = none → step s = .next t →
    t.pmpEntry i = s.pmpEntry i ∧ t.pmpLocked i = true

/-- `mseccfg.MML` and `mseccfg.MMWP` once set stay set in every step that is no reset. -/
def Obligations.SmepmpBitsAreSticky : Prop :=
  ∀ s t : State, s.input.reset = none → step s = .next t →
    (s.seccfg.mml = true → t.seccfg.mml = true) ∧ (s.seccfg.mmwp = true → t.seccfg.mmwp = true)

/-- What a reset leaves, where the spec states a value, of `MDT` and `MBE` as they read; the hart's other state is the
model's choice (log entries 2 and 27). -/
def Obligations.ResetLeaves : Prop :=
  ∀ (s : State) (cause : Nat), s.input.reset = some cause →
    ∃ t, step s = .next t ∧ t.priv = .m ∧ t.csr.mstatus.mie = false ∧ t.csr.mstatus.mprv = false ∧
      t.mbe = (t.cfg.mbeKind == .ro1) ∧ t.status.mdt = t.cfg.ext.smdbltrp ∧ t.csr.misa = t.cfg.misaReset ∧ t.reservation = none ∧
      t.pc = t.cfg.resetVector ∧ t.csr.mcause = narrow t.cfg.mxlen (t.cfg.resetCause cause) ∧
      (t.cfg.pmpReset = [] → ∀ i, (t.pmpEntry i).cfg.a = .off ∧ (t.pmpEntry i).cfg.l = false) ∧
      t.csr.mseccfg.mml = t.cfg.mmlReset ∧ t.csr.mseccfg.mmwp = t.cfg.mmwpReset ∧ t.csr.mseccfg.rlb = t.cfg.rlbReset ∧
      t.csr.mseccfg.mlpe = false ∧ t.csr.mseccfg.useed = t.cfg.useedReset ∧ t.csr.mseccfg.sseed = t.cfg.sseedReset ∧
      t.rnmi.nmie = false ∧ t.wait = .running ∧ t.criticalError = false ∧ t.cfg = s.cfg

/-- The reset state meets the invariant. -/
def Obligations.ResetMeetsInvariant : Prop := State.reset.invariant = true

/-- Every step keeps the invariant: memory canonical, an implemented mode, `MDT` against `MIE` and the modes below M,
`pc` aligned. -/
def Obligations.StepKeepsInvariant : Prop :=
  ∀ s t : State, s.invariant = true → step s = .next t → t.invariant = true

/-- Canonical memories that read the same are equal. -/
def Obligations.MemoryIsExtensional : Prop :=
  ∀ m m' : Memory, Memory.wf m = true → Memory.wf m' = true → (∀ a, Memory.read m a = Memory.read m' a) → m = m'

/-- No U-mode step that stays in U-mode changes a machine-level register or the PMP: of `mstatus` nothing but FS and VS, of
`mip` no bit that software writes, unless the platform requests SSIP; the counters and LCOFIP, which counting changes,
apart. -/
def Obligations.UserModeCannotChangeMachineState : Prop :=
  ∀ s t : State, s.priv = .u → step s = .next t → t.priv = .u → sameMachineState s t

/-- The privilege mode falls only by a trap return: no trap, interrupt, reset or other instruction lowers it. -/
def Obligations.PrivilegeFallsOnlyByReturn : Prop :=
  ∀ s t : State, step s = .next t → t.priv.code.toNat < s.priv.code.toNat →
    ∃ (w : BitVec 32) (i : Instr), (s.sampled s.input).fetch = .ok w ∧ decodeWord w = .ok i ∧
      (i = .mret ∨ i = .sret ∨ i = .mnret)

/-- A hart with no unprivileged extension and coherent memory never stops: every step answers a next state. -/
def Obligations.ReferenceHartNeverStops : Prop :=
  ∀ s : State, s.mayExtend = false → (∀ r ∈ s.cfg.pma, r.coherent = true) →
    ∃ t, step s = .next t

end
end

