-- ==== Sys2Proof/Laws/Memory.lean ====
section
/-! SUPPORT. The memory operations: what a read sees after each of them, and that each keeps the canonical form. -/

namespace Sys2Proof.Machine

@[simp] theorem Memory.read_nil (a : Nat) : Memory.read [] a = Memory.unlisted := rfl

theorem Memory.read_cons (c : Host.Cell) (m : Memory) (a : Nat) :
    Memory.read (c :: m) a = if c.1 = a then c.2 else Memory.read m a := rfl

/-- A removed address reads as unlisted, every other as before. -/
theorem Memory.read_remove (m : Memory) (a a' : Nat) :
    Memory.read (Memory.remove m a) a' = if a' = a then Memory.unlisted else Memory.read m a' := by
  induction m with
  | nil => simp [Memory.remove]
  | cons c m ih =>
    simp only [Memory.remove]
    split
    · rename_i h
      rw [ih, Memory.read_cons]
      split
      · rfl
      · rename_i h'
        rw [if_neg (fun e => h' (e.symm.trans h))]
    · rename_i h
      rw [Memory.read_cons, ih, Memory.read_cons]
      by_cases h1 : c.1 = a'
      · rw [if_pos h1, if_pos h1, if_neg (fun e => h (h1.trans e))]
      · rw [if_neg h1, if_neg h1]

/-- An inserted address reads as the new byte where nothing before hides it; every other as before. -/
theorem Memory.read_insert (m : Memory) (a a' : Nat) (b : Byte) (h : ∀ c ∈ m, c.1 ≠ a) :
    Memory.read (Memory.insert m a b) a' = if a' = a then b else Memory.read m a' := by
  induction m with
  | nil =>
    simp only [Memory.insert, Memory.read_cons, Memory.read_nil]
    exact if_congr eq_comm rfl rfl
  | cons c m ih =>
    simp only [Memory.insert]
    split
    · rw [Memory.read_cons]
      exact if_congr eq_comm rfl rfl
    · rw [Memory.read_cons, ih (fun d hd => h d (List.mem_cons_of_mem _ hd)), Memory.read_cons]
      have hc : c.1 ≠ a := h c List.mem_cons_self
      by_cases h1 : c.1 = a'
      · rw [if_pos h1, if_pos h1, if_neg (fun e => hc (h1.trans e))]
      · rw [if_neg h1, if_neg h1]

theorem Memory.mem_remove (m : Memory) (a : Nat) (c : Host.Cell) (h : c ∈ Memory.remove m a) : c ∈ m ∧ c.1 ≠ a := by
  induction m with
  | nil => cases h
  | cons d m ih =>
    simp only [Memory.remove] at h
    split at h
    · exact ⟨List.mem_cons_of_mem _ (ih h).1, (ih h).2⟩
    · rename_i hd
      rcases List.mem_cons.mp h with rfl | h'
      · exact ⟨List.mem_cons_self, hd⟩
      · exact ⟨List.mem_cons_of_mem _ (ih h').1, (ih h').2⟩

/-- Read after write: the byte written there, every other byte as before. -/
@[simp] theorem Memory.read_write (m : Memory) (a a' : Nat) (b : Byte) :
    Memory.read (Memory.write m a b) a' = if a' = a then b else Memory.read m a' := by
  unfold Memory.write
  split
  · rename_i h
    rw [Memory.read_remove, h]
  · rw [Memory.read_insert _ _ _ _ (fun c hc => (Memory.mem_remove m a c hc).2), Memory.read_remove]
    split <;> simp_all

theorem Memory.wfAbove_cons (lo : Option Nat) (c : Host.Cell) (m : Memory) :
    Memory.wfAbove lo (c :: m) = true ↔
      (∀ l, lo = some l → l < c.1) ∧ c.2 ≠ Memory.unlisted ∧ Memory.wfAbove (some c.1) m = true := by
  cases lo <;> simp [Memory.wfAbove, and_assoc]

theorem Memory.wfAbove_weaken (m : Memory) (lo lo' : Option Nat) (h : Memory.wfAbove lo m = true)
    (hl : ∀ l', lo' = some l' → ∃ l, lo = some l ∧ l' ≤ l) : Memory.wfAbove lo' m = true := by
  cases m with
  | nil => rfl
  | cons c m =>
    rw [Memory.wfAbove_cons] at h ⊢
    refine ⟨fun l' e => ?_, h.2⟩
    obtain ⟨l, el, hle⟩ := hl l' e
    exact lt_of_le_of_lt hle (h.1 l el)

theorem Memory.wfAbove_remove (m : Memory) (lo : Option Nat) (a : Nat) (h : Memory.wfAbove lo m = true) :
    Memory.wfAbove lo (Memory.remove m a) = true := by
  induction m generalizing lo with
  | nil => rfl
  | cons c m ih =>
    rw [Memory.wfAbove_cons] at h
    simp only [Memory.remove]
    split
    · refine Memory.wfAbove_weaken _ (some c.1) lo (ih _ h.2.2) (fun l e => ⟨c.1, rfl, (h.1 l e).le⟩)
    · rw [Memory.wfAbove_cons]
      exact ⟨h.1, h.2.1, ih _ h.2.2⟩

theorem Memory.wfAbove_insert (m : Memory) (lo : Option Nat) (a : Nat) (b : Byte) (h : Memory.wfAbove lo m = true)
    (hlo : ∀ l, lo = some l → l < a) (hb : b ≠ Memory.unlisted) (hm : ∀ c ∈ m, c.1 ≠ a) :
    Memory.wfAbove lo (Memory.insert m a b) = true := by
  induction m generalizing lo with
  | nil => simp only [Memory.insert]; rw [Memory.wfAbove_cons]; exact ⟨hlo, hb, rfl⟩
  | cons c m ih =>
    rw [Memory.wfAbove_cons] at h
    simp only [Memory.insert]
    split
    · rename_i hac
      rw [Memory.wfAbove_cons, Memory.wfAbove_cons]
      exact ⟨hlo, hb, fun l e => by cases e; exact hac, h.2⟩
    · rename_i hac
      rw [Memory.wfAbove_cons]
      have hc : c.1 ≠ a := hm c List.mem_cons_self
      refine ⟨h.1, h.2.1, ih _ h.2.2 (fun l e => ?_) (fun d hd => hm d (List.mem_cons_of_mem _ hd))⟩
      cases e
      exact lt_of_le_of_ne (not_lt.mp hac) hc

/-- A write keeps the canonical form. -/
theorem Memory.wf_write (m : Memory) (a : Nat) (b : Byte) (h : Memory.wf m = true) :
    Memory.wf (Memory.write m a b) = true := by
  unfold Memory.wf Memory.write at *
  split
  · exact Memory.wfAbove_remove m none a h
  · rename_i hb
    exact Memory.wfAbove_insert _ none a b (Memory.wfAbove_remove m none a h) (fun l e => nomatch e) hb
      (fun c hc => (Memory.mem_remove m a c hc).2)

/-- Writing several bytes keeps the canonical form. -/
theorem Memory.wf_writeBytes (m : Memory) (a : Nat) (bs : List Byte) (h : Memory.wf m = true) :
    Memory.wf (Memory.writeBytes m a bs) = true := by
  induction bs generalizing m a with
  | nil => exact h
  | cons b bs ih => exact ih _ _ (Memory.wf_write m a b h)

/-- The bytes written, at their addresses; every other byte as before. -/
theorem Memory.read_writeBytes (m : Memory) (a a' : Nat) (bs : List Byte) :
    Memory.read (Memory.writeBytes m a bs) a' =
      if a ≤ a' then (bs[a' - a]?).getD (Memory.read m a') else Memory.read m a' := by
  induction bs generalizing m a with
  | nil => simp [Memory.writeBytes]
  | cons b bs ih =>
    simp only [Memory.writeBytes]
    rw [ih, Memory.read_write]
    by_cases h1 : a + 1 ≤ a'
    · obtain ⟨k, rfl⟩ := Nat.exists_eq_add_of_le h1
      have e1 : a + 1 + k - a = k + 1 := by omega
      have e2 : a + 1 + k - (a + 1) = k := by omega
      have h2 : a ≤ a + 1 + k := by omega
      have h3 : a + 1 + k ≠ a := by omega
      simp [h1, h2, h3, e1, e2]
    · by_cases h2 : a' = a
      · subst h2; simp
      · have h3 : ¬ a ≤ a' := by omega
        simp [h1, h2, h3]

end Sys2Proof.Machine
end

