-- ==== Sys2Proof/Laws/State.lean ====
section
/-! SUPPORT. One lemma per field per update of State, true by unfolding, for simp. -/

namespace Sys2Proof.Machine

@[simp] theorem State.setPriv_cfg (s : State) (v : Priv) : (s.setPriv v).cfg = s.cfg := rfl
@[simp] theorem State.setPriv_priv (s : State) (v : Priv) : (s.setPriv v).priv = v := rfl
@[simp] theorem State.setPriv_pc (s : State) (v : Priv) : (s.setPriv v).pc = s.pc := rfl
@[simp] theorem State.setPriv_x (s : State) (v : Priv) : (s.setPriv v).x = s.x := rfl
@[simp] theorem State.setPriv_csr (s : State) (v : Priv) : (s.setPriv v).csr = s.csr := rfl
@[simp] theorem State.setPriv_cnt (s : State) (v : Priv) : (s.setPriv v).cnt = s.cnt := rfl
@[simp] theorem State.setPriv_sup (s : State) (v : Priv) : (s.setPriv v).sup = s.sup := rfl
@[simp] theorem State.setPriv_rnmi (s : State) (v : Priv) : (s.setPriv v).rnmi = s.rnmi := rfl
@[simp] theorem State.setPriv_units (s : State) (v : Priv) : (s.setPriv v).units = s.units := rfl
@[simp] theorem State.setPriv_pmp (s : State) (v : Priv) : (s.setPriv v).pmp = s.pmp := rfl
@[simp] theorem State.setPriv_wait (s : State) (v : Priv) : (s.setPriv v).wait = s.wait := rfl
@[simp] theorem State.setPriv_criticalError (s : State) (v : Priv) : (s.setPriv v).criticalError = s.criticalError := rfl
@[simp] theorem State.setPriv_reservation (s : State) (v : Priv) : (s.setPriv v).reservation = s.reservation := rfl
@[simp] theorem State.setPriv_elp (s : State) (v : Priv) : (s.setPriv v).elp = s.elp := rfl
@[simp] theorem State.setPriv_plat (s : State) (v : Priv) : (s.setPriv v).plat = s.plat := rfl
@[simp] theorem State.setPriv_inputs (s : State) (v : Priv) : (s.setPriv v).inputs = s.inputs := rfl
@[simp] theorem State.setPriv_mem (s : State) (v : Priv) : (s.setPriv v).mem = s.mem := rfl
@[simp] theorem State.setPriv_ctr (s : State) (v : Priv) : (s.setPriv v).ctr = s.ctr := rfl
@[simp] theorem State.setPc_cfg (s : State) (v : Word) : (s.setPc v).cfg = s.cfg := rfl
@[simp] theorem State.setPc_priv (s : State) (v : Word) : (s.setPc v).priv = s.priv := rfl
@[simp] theorem State.setPc_pc (s : State) (v : Word) : (s.setPc v).pc = v := rfl
@[simp] theorem State.setPc_x (s : State) (v : Word) : (s.setPc v).x = s.x := rfl
@[simp] theorem State.setPc_csr (s : State) (v : Word) : (s.setPc v).csr = s.csr := rfl
@[simp] theorem State.setPc_cnt (s : State) (v : Word) : (s.setPc v).cnt = s.cnt := rfl
@[simp] theorem State.setPc_sup (s : State) (v : Word) : (s.setPc v).sup = s.sup := rfl
@[simp] theorem State.setPc_rnmi (s : State) (v : Word) : (s.setPc v).rnmi = s.rnmi := rfl
@[simp] theorem State.setPc_units (s : State) (v : Word) : (s.setPc v).units = s.units := rfl
@[simp] theorem State.setPc_pmp (s : State) (v : Word) : (s.setPc v).pmp = s.pmp := rfl
@[simp] theorem State.setPc_wait (s : State) (v : Word) : (s.setPc v).wait = s.wait := rfl
@[simp] theorem State.setPc_criticalError (s : State) (v : Word) : (s.setPc v).criticalError = s.criticalError := rfl
@[simp] theorem State.setPc_reservation (s : State) (v : Word) : (s.setPc v).reservation = s.reservation := rfl
@[simp] theorem State.setPc_elp (s : State) (v : Word) : (s.setPc v).elp = s.elp := rfl
@[simp] theorem State.setPc_plat (s : State) (v : Word) : (s.setPc v).plat = s.plat := rfl
@[simp] theorem State.setPc_inputs (s : State) (v : Word) : (s.setPc v).inputs = s.inputs := rfl
@[simp] theorem State.setPc_mem (s : State) (v : Word) : (s.setPc v).mem = s.mem := rfl
@[simp] theorem State.setPc_ctr (s : State) (v : Word) : (s.setPc v).ctr = s.ctr := rfl
@[simp] theorem State.setXs_cfg (s : State) (v : Vector Word 32) : (s.setXs v).cfg = s.cfg := rfl
@[simp] theorem State.setXs_priv (s : State) (v : Vector Word 32) : (s.setXs v).priv = s.priv := rfl
@[simp] theorem State.setXs_pc (s : State) (v : Vector Word 32) : (s.setXs v).pc = s.pc := rfl
@[simp] theorem State.setXs_x (s : State) (v : Vector Word 32) : (s.setXs v).x = v := rfl
@[simp] theorem State.setXs_csr (s : State) (v : Vector Word 32) : (s.setXs v).csr = s.csr := rfl
@[simp] theorem State.setXs_cnt (s : State) (v : Vector Word 32) : (s.setXs v).cnt = s.cnt := rfl
@[simp] theorem State.setXs_sup (s : State) (v : Vector Word 32) : (s.setXs v).sup = s.sup := rfl
@[simp] theorem State.setXs_rnmi (s : State) (v : Vector Word 32) : (s.setXs v).rnmi = s.rnmi := rfl
@[simp] theorem State.setXs_units (s : State) (v : Vector Word 32) : (s.setXs v).units = s.units := rfl
@[simp] theorem State.setXs_pmp (s : State) (v : Vector Word 32) : (s.setXs v).pmp = s.pmp := rfl
@[simp] theorem State.setXs_wait (s : State) (v : Vector Word 32) : (s.setXs v).wait = s.wait := rfl
@[simp] theorem State.setXs_criticalError (s : State) (v : Vector Word 32) : (s.setXs v).criticalError = s.criticalError := rfl
@[simp] theorem State.setXs_reservation (s : State) (v : Vector Word 32) : (s.setXs v).reservation = s.reservation := rfl
@[simp] theorem State.setXs_elp (s : State) (v : Vector Word 32) : (s.setXs v).elp = s.elp := rfl
@[simp] theorem State.setXs_plat (s : State) (v : Vector Word 32) : (s.setXs v).plat = s.plat := rfl
@[simp] theorem State.setXs_inputs (s : State) (v : Vector Word 32) : (s.setXs v).inputs = s.inputs := rfl
@[simp] theorem State.setXs_mem (s : State) (v : Vector Word 32) : (s.setXs v).mem = s.mem := rfl
@[simp] theorem State.setXs_ctr (s : State) (v : Vector Word 32) : (s.setXs v).ctr = s.ctr := rfl
@[simp] theorem State.setCsr_cfg (s : State) (v : Csrs) : (s.setCsr v).cfg = s.cfg := rfl
@[simp] theorem State.setCsr_priv (s : State) (v : Csrs) : (s.setCsr v).priv = s.priv := rfl
@[simp] theorem State.setCsr_pc (s : State) (v : Csrs) : (s.setCsr v).pc = s.pc := rfl
@[simp] theorem State.setCsr_x (s : State) (v : Csrs) : (s.setCsr v).x = s.x := rfl
@[simp] theorem State.setCsr_csr (s : State) (v : Csrs) : (s.setCsr v).csr = v := rfl
@[simp] theorem State.setCsr_cnt (s : State) (v : Csrs) : (s.setCsr v).cnt = s.cnt := rfl
@[simp] theorem State.setCsr_sup (s : State) (v : Csrs) : (s.setCsr v).sup = s.sup := rfl
@[simp] theorem State.setCsr_rnmi (s : State) (v : Csrs) : (s.setCsr v).rnmi = s.rnmi := rfl
@[simp] theorem State.setCsr_units (s : State) (v : Csrs) : (s.setCsr v).units = s.units := rfl
@[simp] theorem State.setCsr_pmp (s : State) (v : Csrs) : (s.setCsr v).pmp = s.pmp := rfl
@[simp] theorem State.setCsr_wait (s : State) (v : Csrs) : (s.setCsr v).wait = s.wait := rfl
@[simp] theorem State.setCsr_criticalError (s : State) (v : Csrs) : (s.setCsr v).criticalError = s.criticalError := rfl
@[simp] theorem State.setCsr_reservation (s : State) (v : Csrs) : (s.setCsr v).reservation = s.reservation := rfl
@[simp] theorem State.setCsr_elp (s : State) (v : Csrs) : (s.setCsr v).elp = s.elp := rfl
@[simp] theorem State.setCsr_plat (s : State) (v : Csrs) : (s.setCsr v).plat = s.plat := rfl
@[simp] theorem State.setCsr_inputs (s : State) (v : Csrs) : (s.setCsr v).inputs = s.inputs := rfl
@[simp] theorem State.setCsr_mem (s : State) (v : Csrs) : (s.setCsr v).mem = s.mem := rfl
@[simp] theorem State.setCsr_ctr (s : State) (v : Csrs) : (s.setCsr v).ctr = s.ctr := rfl
@[simp] theorem State.setCnt_cfg (s : State) (v : Counters) : (s.setCnt v).cfg = s.cfg := rfl
@[simp] theorem State.setCnt_priv (s : State) (v : Counters) : (s.setCnt v).priv = s.priv := rfl
@[simp] theorem State.setCnt_pc (s : State) (v : Counters) : (s.setCnt v).pc = s.pc := rfl
@[simp] theorem State.setCnt_x (s : State) (v : Counters) : (s.setCnt v).x = s.x := rfl
@[simp] theorem State.setCnt_csr (s : State) (v : Counters) : (s.setCnt v).csr = s.csr := rfl
@[simp] theorem State.setCnt_cnt (s : State) (v : Counters) : (s.setCnt v).cnt = v := rfl
@[simp] theorem State.setCnt_sup (s : State) (v : Counters) : (s.setCnt v).sup = s.sup := rfl
@[simp] theorem State.setCnt_rnmi (s : State) (v : Counters) : (s.setCnt v).rnmi = s.rnmi := rfl
@[simp] theorem State.setCnt_units (s : State) (v : Counters) : (s.setCnt v).units = s.units := rfl
@[simp] theorem State.setCnt_pmp (s : State) (v : Counters) : (s.setCnt v).pmp = s.pmp := rfl
@[simp] theorem State.setCnt_wait (s : State) (v : Counters) : (s.setCnt v).wait = s.wait := rfl
@[simp] theorem State.setCnt_criticalError (s : State) (v : Counters) : (s.setCnt v).criticalError = s.criticalError := rfl
@[simp] theorem State.setCnt_reservation (s : State) (v : Counters) : (s.setCnt v).reservation = s.reservation := rfl
@[simp] theorem State.setCnt_elp (s : State) (v : Counters) : (s.setCnt v).elp = s.elp := rfl
@[simp] theorem State.setCnt_plat (s : State) (v : Counters) : (s.setCnt v).plat = s.plat := rfl
@[simp] theorem State.setCnt_inputs (s : State) (v : Counters) : (s.setCnt v).inputs = s.inputs := rfl
@[simp] theorem State.setCnt_mem (s : State) (v : Counters) : (s.setCnt v).mem = s.mem := rfl
@[simp] theorem State.setCnt_ctr (s : State) (v : Counters) : (s.setCnt v).ctr = s.ctr := rfl
@[simp] theorem State.setSup_cfg (s : State) (v : Supervisor) : (s.setSup v).cfg = s.cfg := rfl
@[simp] theorem State.setSup_priv (s : State) (v : Supervisor) : (s.setSup v).priv = s.priv := rfl
@[simp] theorem State.setSup_pc (s : State) (v : Supervisor) : (s.setSup v).pc = s.pc := rfl
@[simp] theorem State.setSup_x (s : State) (v : Supervisor) : (s.setSup v).x = s.x := rfl
@[simp] theorem State.setSup_csr (s : State) (v : Supervisor) : (s.setSup v).csr = s.csr := rfl
@[simp] theorem State.setSup_cnt (s : State) (v : Supervisor) : (s.setSup v).cnt = s.cnt := rfl
@[simp] theorem State.setSup_sup (s : State) (v : Supervisor) : (s.setSup v).sup = v := rfl
@[simp] theorem State.setSup_rnmi (s : State) (v : Supervisor) : (s.setSup v).rnmi = s.rnmi := rfl
@[simp] theorem State.setSup_units (s : State) (v : Supervisor) : (s.setSup v).units = s.units := rfl
@[simp] theorem State.setSup_pmp (s : State) (v : Supervisor) : (s.setSup v).pmp = s.pmp := rfl
@[simp] theorem State.setSup_wait (s : State) (v : Supervisor) : (s.setSup v).wait = s.wait := rfl
@[simp] theorem State.setSup_criticalError (s : State) (v : Supervisor) : (s.setSup v).criticalError = s.criticalError := rfl
@[simp] theorem State.setSup_reservation (s : State) (v : Supervisor) : (s.setSup v).reservation = s.reservation := rfl
@[simp] theorem State.setSup_elp (s : State) (v : Supervisor) : (s.setSup v).elp = s.elp := rfl
@[simp] theorem State.setSup_plat (s : State) (v : Supervisor) : (s.setSup v).plat = s.plat := rfl
@[simp] theorem State.setSup_inputs (s : State) (v : Supervisor) : (s.setSup v).inputs = s.inputs := rfl
@[simp] theorem State.setSup_mem (s : State) (v : Supervisor) : (s.setSup v).mem = s.mem := rfl
@[simp] theorem State.setSup_ctr (s : State) (v : Supervisor) : (s.setSup v).ctr = s.ctr := rfl
@[simp] theorem State.setRnmi_cfg (s : State) (v : Rnmi) : (s.setRnmi v).cfg = s.cfg := rfl
@[simp] theorem State.setRnmi_priv (s : State) (v : Rnmi) : (s.setRnmi v).priv = s.priv := rfl
@[simp] theorem State.setRnmi_pc (s : State) (v : Rnmi) : (s.setRnmi v).pc = s.pc := rfl
@[simp] theorem State.setRnmi_x (s : State) (v : Rnmi) : (s.setRnmi v).x = s.x := rfl
@[simp] theorem State.setRnmi_csr (s : State) (v : Rnmi) : (s.setRnmi v).csr = s.csr := rfl
@[simp] theorem State.setRnmi_cnt (s : State) (v : Rnmi) : (s.setRnmi v).cnt = s.cnt := rfl
@[simp] theorem State.setRnmi_sup (s : State) (v : Rnmi) : (s.setRnmi v).sup = s.sup := rfl
@[simp] theorem State.setRnmi_rnmi (s : State) (v : Rnmi) : (s.setRnmi v).rnmi = v := rfl
@[simp] theorem State.setRnmi_units (s : State) (v : Rnmi) : (s.setRnmi v).units = s.units := rfl
@[simp] theorem State.setRnmi_pmp (s : State) (v : Rnmi) : (s.setRnmi v).pmp = s.pmp := rfl
@[simp] theorem State.setRnmi_wait (s : State) (v : Rnmi) : (s.setRnmi v).wait = s.wait := rfl
@[simp] theorem State.setRnmi_criticalError (s : State) (v : Rnmi) : (s.setRnmi v).criticalError = s.criticalError := rfl
@[simp] theorem State.setRnmi_reservation (s : State) (v : Rnmi) : (s.setRnmi v).reservation = s.reservation := rfl
@[simp] theorem State.setRnmi_elp (s : State) (v : Rnmi) : (s.setRnmi v).elp = s.elp := rfl
@[simp] theorem State.setRnmi_plat (s : State) (v : Rnmi) : (s.setRnmi v).plat = s.plat := rfl
@[simp] theorem State.setRnmi_inputs (s : State) (v : Rnmi) : (s.setRnmi v).inputs = s.inputs := rfl
@[simp] theorem State.setRnmi_mem (s : State) (v : Rnmi) : (s.setRnmi v).mem = s.mem := rfl
@[simp] theorem State.setRnmi_ctr (s : State) (v : Rnmi) : (s.setRnmi v).ctr = s.ctr := rfl
@[simp] theorem State.setUnits_cfg (s : State) (v : Units) : (s.setUnits v).cfg = s.cfg := rfl
@[simp] theorem State.setUnits_priv (s : State) (v : Units) : (s.setUnits v).priv = s.priv := rfl
@[simp] theorem State.setUnits_pc (s : State) (v : Units) : (s.setUnits v).pc = s.pc := rfl
@[simp] theorem State.setUnits_x (s : State) (v : Units) : (s.setUnits v).x = s.x := rfl
@[simp] theorem State.setUnits_csr (s : State) (v : Units) : (s.setUnits v).csr = s.csr := rfl
@[simp] theorem State.setUnits_cnt (s : State) (v : Units) : (s.setUnits v).cnt = s.cnt := rfl
@[simp] theorem State.setUnits_sup (s : State) (v : Units) : (s.setUnits v).sup = s.sup := rfl
@[simp] theorem State.setUnits_rnmi (s : State) (v : Units) : (s.setUnits v).rnmi = s.rnmi := rfl
@[simp] theorem State.setUnits_units (s : State) (v : Units) : (s.setUnits v).units = v := rfl
@[simp] theorem State.setUnits_pmp (s : State) (v : Units) : (s.setUnits v).pmp = s.pmp := rfl
@[simp] theorem State.setUnits_wait (s : State) (v : Units) : (s.setUnits v).wait = s.wait := rfl
@[simp] theorem State.setUnits_criticalError (s : State) (v : Units) : (s.setUnits v).criticalError = s.criticalError := rfl
@[simp] theorem State.setUnits_reservation (s : State) (v : Units) : (s.setUnits v).reservation = s.reservation := rfl
@[simp] theorem State.setUnits_elp (s : State) (v : Units) : (s.setUnits v).elp = s.elp := rfl
@[simp] theorem State.setUnits_plat (s : State) (v : Units) : (s.setUnits v).plat = s.plat := rfl
@[simp] theorem State.setUnits_inputs (s : State) (v : Units) : (s.setUnits v).inputs = s.inputs := rfl
@[simp] theorem State.setUnits_mem (s : State) (v : Units) : (s.setUnits v).mem = s.mem := rfl
@[simp] theorem State.setUnits_ctr (s : State) (v : Units) : (s.setUnits v).ctr = s.ctr := rfl
@[simp] theorem State.setPmp_cfg (s : State) (v : Vector PmpEntry 64) : (s.setPmp v).cfg = s.cfg := rfl
@[simp] theorem State.setPmp_priv (s : State) (v : Vector PmpEntry 64) : (s.setPmp v).priv = s.priv := rfl
@[simp] theorem State.setPmp_pc (s : State) (v : Vector PmpEntry 64) : (s.setPmp v).pc = s.pc := rfl
@[simp] theorem State.setPmp_x (s : State) (v : Vector PmpEntry 64) : (s.setPmp v).x = s.x := rfl
@[simp] theorem State.setPmp_csr (s : State) (v : Vector PmpEntry 64) : (s.setPmp v).csr = s.csr := rfl
@[simp] theorem State.setPmp_cnt (s : State) (v : Vector PmpEntry 64) : (s.setPmp v).cnt = s.cnt := rfl
@[simp] theorem State.setPmp_sup (s : State) (v : Vector PmpEntry 64) : (s.setPmp v).sup = s.sup := rfl
@[simp] theorem State.setPmp_rnmi (s : State) (v : Vector PmpEntry 64) : (s.setPmp v).rnmi = s.rnmi := rfl
@[simp] theorem State.setPmp_units (s : State) (v : Vector PmpEntry 64) : (s.setPmp v).units = s.units := rfl
@[simp] theorem State.setPmp_pmp (s : State) (v : Vector PmpEntry 64) : (s.setPmp v).pmp = v := rfl
@[simp] theorem State.setPmp_wait (s : State) (v : Vector PmpEntry 64) : (s.setPmp v).wait = s.wait := rfl
@[simp] theorem State.setPmp_criticalError (s : State) (v : Vector PmpEntry 64) : (s.setPmp v).criticalError = s.criticalError := rfl
@[simp] theorem State.setPmp_reservation (s : State) (v : Vector PmpEntry 64) : (s.setPmp v).reservation = s.reservation := rfl
@[simp] theorem State.setPmp_elp (s : State) (v : Vector PmpEntry 64) : (s.setPmp v).elp = s.elp := rfl
@[simp] theorem State.setPmp_plat (s : State) (v : Vector PmpEntry 64) : (s.setPmp v).plat = s.plat := rfl
@[simp] theorem State.setPmp_inputs (s : State) (v : Vector PmpEntry 64) : (s.setPmp v).inputs = s.inputs := rfl
@[simp] theorem State.setPmp_mem (s : State) (v : Vector PmpEntry 64) : (s.setPmp v).mem = s.mem := rfl
@[simp] theorem State.setPmp_ctr (s : State) (v : Vector PmpEntry 64) : (s.setPmp v).ctr = s.ctr := rfl
@[simp] theorem State.setWait_cfg (s : State) (v : Wait) : (s.setWait v).cfg = s.cfg := rfl
@[simp] theorem State.setWait_priv (s : State) (v : Wait) : (s.setWait v).priv = s.priv := rfl
@[simp] theorem State.setWait_pc (s : State) (v : Wait) : (s.setWait v).pc = s.pc := rfl
@[simp] theorem State.setWait_x (s : State) (v : Wait) : (s.setWait v).x = s.x := rfl
@[simp] theorem State.setWait_csr (s : State) (v : Wait) : (s.setWait v).csr = s.csr := rfl
@[simp] theorem State.setWait_cnt (s : State) (v : Wait) : (s.setWait v).cnt = s.cnt := rfl
@[simp] theorem State.setWait_sup (s : State) (v : Wait) : (s.setWait v).sup = s.sup := rfl
@[simp] theorem State.setWait_rnmi (s : State) (v : Wait) : (s.setWait v).rnmi = s.rnmi := rfl
@[simp] theorem State.setWait_units (s : State) (v : Wait) : (s.setWait v).units = s.units := rfl
@[simp] theorem State.setWait_pmp (s : State) (v : Wait) : (s.setWait v).pmp = s.pmp := rfl
@[simp] theorem State.setWait_wait (s : State) (v : Wait) : (s.setWait v).wait = v := rfl
@[simp] theorem State.setWait_criticalError (s : State) (v : Wait) : (s.setWait v).criticalError = s.criticalError := rfl
@[simp] theorem State.setWait_reservation (s : State) (v : Wait) : (s.setWait v).reservation = s.reservation := rfl
@[simp] theorem State.setWait_elp (s : State) (v : Wait) : (s.setWait v).elp = s.elp := rfl
@[simp] theorem State.setWait_plat (s : State) (v : Wait) : (s.setWait v).plat = s.plat := rfl
@[simp] theorem State.setWait_inputs (s : State) (v : Wait) : (s.setWait v).inputs = s.inputs := rfl
@[simp] theorem State.setWait_mem (s : State) (v : Wait) : (s.setWait v).mem = s.mem := rfl
@[simp] theorem State.setWait_ctr (s : State) (v : Wait) : (s.setWait v).ctr = s.ctr := rfl
@[simp] theorem State.setCriticalError_cfg (s : State) (v : Bool) : (s.setCriticalError v).cfg = s.cfg := rfl
@[simp] theorem State.setCriticalError_priv (s : State) (v : Bool) : (s.setCriticalError v).priv = s.priv := rfl
@[simp] theorem State.setCriticalError_pc (s : State) (v : Bool) : (s.setCriticalError v).pc = s.pc := rfl
@[simp] theorem State.setCriticalError_x (s : State) (v : Bool) : (s.setCriticalError v).x = s.x := rfl
@[simp] theorem State.setCriticalError_csr (s : State) (v : Bool) : (s.setCriticalError v).csr = s.csr := rfl
@[simp] theorem State.setCriticalError_cnt (s : State) (v : Bool) : (s.setCriticalError v).cnt = s.cnt := rfl
@[simp] theorem State.setCriticalError_sup (s : State) (v : Bool) : (s.setCriticalError v).sup = s.sup := rfl
@[simp] theorem State.setCriticalError_rnmi (s : State) (v : Bool) : (s.setCriticalError v).rnmi = s.rnmi := rfl
@[simp] theorem State.setCriticalError_units (s : State) (v : Bool) : (s.setCriticalError v).units = s.units := rfl
@[simp] theorem State.setCriticalError_pmp (s : State) (v : Bool) : (s.setCriticalError v).pmp = s.pmp := rfl
@[simp] theorem State.setCriticalError_wait (s : State) (v : Bool) : (s.setCriticalError v).wait = s.wait := rfl
@[simp] theorem State.setCriticalError_criticalError (s : State) (v : Bool) : (s.setCriticalError v).criticalError = v := rfl
@[simp] theorem State.setCriticalError_reservation (s : State) (v : Bool) : (s.setCriticalError v).reservation = s.reservation := rfl
@[simp] theorem State.setCriticalError_elp (s : State) (v : Bool) : (s.setCriticalError v).elp = s.elp := rfl
@[simp] theorem State.setCriticalError_plat (s : State) (v : Bool) : (s.setCriticalError v).plat = s.plat := rfl
@[simp] theorem State.setCriticalError_inputs (s : State) (v : Bool) : (s.setCriticalError v).inputs = s.inputs := rfl
@[simp] theorem State.setCriticalError_mem (s : State) (v : Bool) : (s.setCriticalError v).mem = s.mem := rfl
@[simp] theorem State.setCriticalError_ctr (s : State) (v : Bool) : (s.setCriticalError v).ctr = s.ctr := rfl
@[simp] theorem State.setReservation_cfg (s : State) (v : Option (List Nat)) : (s.setReservation v).cfg = s.cfg := rfl
@[simp] theorem State.setReservation_priv (s : State) (v : Option (List Nat)) : (s.setReservation v).priv = s.priv := rfl
@[simp] theorem State.setReservation_pc (s : State) (v : Option (List Nat)) : (s.setReservation v).pc = s.pc := rfl
@[simp] theorem State.setReservation_x (s : State) (v : Option (List Nat)) : (s.setReservation v).x = s.x := rfl
@[simp] theorem State.setReservation_csr (s : State) (v : Option (List Nat)) : (s.setReservation v).csr = s.csr := rfl
@[simp] theorem State.setReservation_cnt (s : State) (v : Option (List Nat)) : (s.setReservation v).cnt = s.cnt := rfl
@[simp] theorem State.setReservation_sup (s : State) (v : Option (List Nat)) : (s.setReservation v).sup = s.sup := rfl
@[simp] theorem State.setReservation_rnmi (s : State) (v : Option (List Nat)) : (s.setReservation v).rnmi = s.rnmi := rfl
@[simp] theorem State.setReservation_units (s : State) (v : Option (List Nat)) : (s.setReservation v).units = s.units := rfl
@[simp] theorem State.setReservation_pmp (s : State) (v : Option (List Nat)) : (s.setReservation v).pmp = s.pmp := rfl
@[simp] theorem State.setReservation_wait (s : State) (v : Option (List Nat)) : (s.setReservation v).wait = s.wait := rfl
@[simp] theorem State.setReservation_criticalError (s : State) (v : Option (List Nat)) : (s.setReservation v).criticalError = s.criticalError := rfl
@[simp] theorem State.setReservation_reservation (s : State) (v : Option (List Nat)) : (s.setReservation v).reservation = v := rfl
@[simp] theorem State.setReservation_elp (s : State) (v : Option (List Nat)) : (s.setReservation v).elp = s.elp := rfl
@[simp] theorem State.setReservation_plat (s : State) (v : Option (List Nat)) : (s.setReservation v).plat = s.plat := rfl
@[simp] theorem State.setReservation_inputs (s : State) (v : Option (List Nat)) : (s.setReservation v).inputs = s.inputs := rfl
@[simp] theorem State.setReservation_mem (s : State) (v : Option (List Nat)) : (s.setReservation v).mem = s.mem := rfl
@[simp] theorem State.setReservation_ctr (s : State) (v : Option (List Nat)) : (s.setReservation v).ctr = s.ctr := rfl
@[simp] theorem State.setElp_cfg (s : State) (v : Bool) : (s.setElp v).cfg = s.cfg := rfl
@[simp] theorem State.setElp_priv (s : State) (v : Bool) : (s.setElp v).priv = s.priv := rfl
@[simp] theorem State.setElp_pc (s : State) (v : Bool) : (s.setElp v).pc = s.pc := rfl
@[simp] theorem State.setElp_x (s : State) (v : Bool) : (s.setElp v).x = s.x := rfl
@[simp] theorem State.setElp_csr (s : State) (v : Bool) : (s.setElp v).csr = s.csr := rfl
@[simp] theorem State.setElp_cnt (s : State) (v : Bool) : (s.setElp v).cnt = s.cnt := rfl
@[simp] theorem State.setElp_sup (s : State) (v : Bool) : (s.setElp v).sup = s.sup := rfl
@[simp] theorem State.setElp_rnmi (s : State) (v : Bool) : (s.setElp v).rnmi = s.rnmi := rfl
@[simp] theorem State.setElp_units (s : State) (v : Bool) : (s.setElp v).units = s.units := rfl
@[simp] theorem State.setElp_pmp (s : State) (v : Bool) : (s.setElp v).pmp = s.pmp := rfl
@[simp] theorem State.setElp_wait (s : State) (v : Bool) : (s.setElp v).wait = s.wait := rfl
@[simp] theorem State.setElp_criticalError (s : State) (v : Bool) : (s.setElp v).criticalError = s.criticalError := rfl
@[simp] theorem State.setElp_reservation (s : State) (v : Bool) : (s.setElp v).reservation = s.reservation := rfl
@[simp] theorem State.setElp_elp (s : State) (v : Bool) : (s.setElp v).elp = v := rfl
@[simp] theorem State.setElp_plat (s : State) (v : Bool) : (s.setElp v).plat = s.plat := rfl
@[simp] theorem State.setElp_inputs (s : State) (v : Bool) : (s.setElp v).inputs = s.inputs := rfl
@[simp] theorem State.setElp_mem (s : State) (v : Bool) : (s.setElp v).mem = s.mem := rfl
@[simp] theorem State.setElp_ctr (s : State) (v : Bool) : (s.setElp v).ctr = s.ctr := rfl
@[simp] theorem State.setPlat_cfg (s : State) (v : Platform) : (s.setPlat v).cfg = s.cfg := rfl
@[simp] theorem State.setPlat_priv (s : State) (v : Platform) : (s.setPlat v).priv = s.priv := rfl
@[simp] theorem State.setPlat_pc (s : State) (v : Platform) : (s.setPlat v).pc = s.pc := rfl
@[simp] theorem State.setPlat_x (s : State) (v : Platform) : (s.setPlat v).x = s.x := rfl
@[simp] theorem State.setPlat_csr (s : State) (v : Platform) : (s.setPlat v).csr = s.csr := rfl
@[simp] theorem State.setPlat_cnt (s : State) (v : Platform) : (s.setPlat v).cnt = s.cnt := rfl
@[simp] theorem State.setPlat_sup (s : State) (v : Platform) : (s.setPlat v).sup = s.sup := rfl
@[simp] theorem State.setPlat_rnmi (s : State) (v : Platform) : (s.setPlat v).rnmi = s.rnmi := rfl
@[simp] theorem State.setPlat_units (s : State) (v : Platform) : (s.setPlat v).units = s.units := rfl
@[simp] theorem State.setPlat_pmp (s : State) (v : Platform) : (s.setPlat v).pmp = s.pmp := rfl
@[simp] theorem State.setPlat_wait (s : State) (v : Platform) : (s.setPlat v).wait = s.wait := rfl
@[simp] theorem State.setPlat_criticalError (s : State) (v : Platform) : (s.setPlat v).criticalError = s.criticalError := rfl
@[simp] theorem State.setPlat_reservation (s : State) (v : Platform) : (s.setPlat v).reservation = s.reservation := rfl
@[simp] theorem State.setPlat_elp (s : State) (v : Platform) : (s.setPlat v).elp = s.elp := rfl
@[simp] theorem State.setPlat_plat (s : State) (v : Platform) : (s.setPlat v).plat = v := rfl
@[simp] theorem State.setPlat_inputs (s : State) (v : Platform) : (s.setPlat v).inputs = s.inputs := rfl
@[simp] theorem State.setPlat_mem (s : State) (v : Platform) : (s.setPlat v).mem = s.mem := rfl
@[simp] theorem State.setPlat_ctr (s : State) (v : Platform) : (s.setPlat v).ctr = s.ctr := rfl
@[simp] theorem State.setInputs_cfg (s : State) (v : List PlatIn) : (s.setInputs v).cfg = s.cfg := rfl
@[simp] theorem State.setInputs_priv (s : State) (v : List PlatIn) : (s.setInputs v).priv = s.priv := rfl
@[simp] theorem State.setInputs_pc (s : State) (v : List PlatIn) : (s.setInputs v).pc = s.pc := rfl
@[simp] theorem State.setInputs_x (s : State) (v : List PlatIn) : (s.setInputs v).x = s.x := rfl
@[simp] theorem State.setInputs_csr (s : State) (v : List PlatIn) : (s.setInputs v).csr = s.csr := rfl
@[simp] theorem State.setInputs_cnt (s : State) (v : List PlatIn) : (s.setInputs v).cnt = s.cnt := rfl
@[simp] theorem State.setInputs_sup (s : State) (v : List PlatIn) : (s.setInputs v).sup = s.sup := rfl
@[simp] theorem State.setInputs_rnmi (s : State) (v : List PlatIn) : (s.setInputs v).rnmi = s.rnmi := rfl
@[simp] theorem State.setInputs_units (s : State) (v : List PlatIn) : (s.setInputs v).units = s.units := rfl
@[simp] theorem State.setInputs_pmp (s : State) (v : List PlatIn) : (s.setInputs v).pmp = s.pmp := rfl
@[simp] theorem State.setInputs_wait (s : State) (v : List PlatIn) : (s.setInputs v).wait = s.wait := rfl
@[simp] theorem State.setInputs_criticalError (s : State) (v : List PlatIn) : (s.setInputs v).criticalError = s.criticalError := rfl
@[simp] theorem State.setInputs_reservation (s : State) (v : List PlatIn) : (s.setInputs v).reservation = s.reservation := rfl
@[simp] theorem State.setInputs_elp (s : State) (v : List PlatIn) : (s.setInputs v).elp = s.elp := rfl
@[simp] theorem State.setInputs_plat (s : State) (v : List PlatIn) : (s.setInputs v).plat = s.plat := rfl
@[simp] theorem State.setInputs_inputs (s : State) (v : List PlatIn) : (s.setInputs v).inputs = v := rfl
@[simp] theorem State.setInputs_mem (s : State) (v : List PlatIn) : (s.setInputs v).mem = s.mem := rfl
@[simp] theorem State.setInputs_ctr (s : State) (v : List PlatIn) : (s.setInputs v).ctr = s.ctr := rfl
@[simp] theorem State.setMem_cfg (s : State) (v : List Host.Cell) : (s.setMem v).cfg = s.cfg := rfl
@[simp] theorem State.setMem_priv (s : State) (v : List Host.Cell) : (s.setMem v).priv = s.priv := rfl
@[simp] theorem State.setMem_pc (s : State) (v : List Host.Cell) : (s.setMem v).pc = s.pc := rfl
@[simp] theorem State.setMem_x (s : State) (v : List Host.Cell) : (s.setMem v).x = s.x := rfl
@[simp] theorem State.setMem_csr (s : State) (v : List Host.Cell) : (s.setMem v).csr = s.csr := rfl
@[simp] theorem State.setMem_cnt (s : State) (v : List Host.Cell) : (s.setMem v).cnt = s.cnt := rfl
@[simp] theorem State.setMem_sup (s : State) (v : List Host.Cell) : (s.setMem v).sup = s.sup := rfl
@[simp] theorem State.setMem_rnmi (s : State) (v : List Host.Cell) : (s.setMem v).rnmi = s.rnmi := rfl
@[simp] theorem State.setMem_units (s : State) (v : List Host.Cell) : (s.setMem v).units = s.units := rfl
@[simp] theorem State.setMem_pmp (s : State) (v : List Host.Cell) : (s.setMem v).pmp = s.pmp := rfl
@[simp] theorem State.setMem_wait (s : State) (v : List Host.Cell) : (s.setMem v).wait = s.wait := rfl
@[simp] theorem State.setMem_criticalError (s : State) (v : List Host.Cell) : (s.setMem v).criticalError = s.criticalError := rfl
@[simp] theorem State.setMem_reservation (s : State) (v : List Host.Cell) : (s.setMem v).reservation = s.reservation := rfl
@[simp] theorem State.setMem_elp (s : State) (v : List Host.Cell) : (s.setMem v).elp = s.elp := rfl
@[simp] theorem State.setMem_plat (s : State) (v : List Host.Cell) : (s.setMem v).plat = s.plat := rfl
@[simp] theorem State.setMem_inputs (s : State) (v : List Host.Cell) : (s.setMem v).inputs = s.inputs := rfl
@[simp] theorem State.setMem_mem (s : State) (v : List Host.Cell) : (s.setMem v).mem = v := rfl
@[simp] theorem State.setMem_ctr (s : State) (v : List Host.Cell) : (s.setMem v).ctr = s.ctr := rfl
@[simp] theorem State.setCtr_cfg (s : State) (v : Nat) : (s.setCtr v).cfg = s.cfg := rfl
@[simp] theorem State.setCtr_priv (s : State) (v : Nat) : (s.setCtr v).priv = s.priv := rfl
@[simp] theorem State.setCtr_pc (s : State) (v : Nat) : (s.setCtr v).pc = s.pc := rfl
@[simp] theorem State.setCtr_x (s : State) (v : Nat) : (s.setCtr v).x = s.x := rfl
@[simp] theorem State.setCtr_csr (s : State) (v : Nat) : (s.setCtr v).csr = s.csr := rfl
@[simp] theorem State.setCtr_cnt (s : State) (v : Nat) : (s.setCtr v).cnt = s.cnt := rfl
@[simp] theorem State.setCtr_sup (s : State) (v : Nat) : (s.setCtr v).sup = s.sup := rfl
@[simp] theorem State.setCtr_rnmi (s : State) (v : Nat) : (s.setCtr v).rnmi = s.rnmi := rfl
@[simp] theorem State.setCtr_units (s : State) (v : Nat) : (s.setCtr v).units = s.units := rfl
@[simp] theorem State.setCtr_pmp (s : State) (v : Nat) : (s.setCtr v).pmp = s.pmp := rfl
@[simp] theorem State.setCtr_wait (s : State) (v : Nat) : (s.setCtr v).wait = s.wait := rfl
@[simp] theorem State.setCtr_criticalError (s : State) (v : Nat) : (s.setCtr v).criticalError = s.criticalError := rfl
@[simp] theorem State.setCtr_reservation (s : State) (v : Nat) : (s.setCtr v).reservation = s.reservation := rfl
@[simp] theorem State.setCtr_elp (s : State) (v : Nat) : (s.setCtr v).elp = s.elp := rfl
@[simp] theorem State.setCtr_plat (s : State) (v : Nat) : (s.setCtr v).plat = s.plat := rfl
@[simp] theorem State.setCtr_inputs (s : State) (v : Nat) : (s.setCtr v).inputs = s.inputs := rfl
@[simp] theorem State.setCtr_mem (s : State) (v : Nat) : (s.setCtr v).mem = s.mem := rfl
@[simp] theorem State.setCtr_ctr (s : State) (v : Nat) : (s.setCtr v).ctr = v := rfl
@[simp] theorem State.setMstatus_cfg (s : State) (m : Mstatus) : (s.setMstatus m).cfg = s.cfg := rfl
@[simp] theorem State.setMstatus_priv (s : State) (m : Mstatus) : (s.setMstatus m).priv = s.priv := rfl
@[simp] theorem State.setMstatus_pc (s : State) (m : Mstatus) : (s.setMstatus m).pc = s.pc := rfl
@[simp] theorem State.setMstatus_x (s : State) (m : Mstatus) : (s.setMstatus m).x = s.x := rfl
@[simp] theorem State.setMstatus_csr (s : State) (m : Mstatus) : (s.setMstatus m).csr = { s.csr with mstatus := m } := rfl
@[simp] theorem State.setMstatus_cnt (s : State) (m : Mstatus) : (s.setMstatus m).cnt = s.cnt := rfl
@[simp] theorem State.setMstatus_sup (s : State) (m : Mstatus) : (s.setMstatus m).sup = s.sup := rfl
@[simp] theorem State.setMstatus_rnmi (s : State) (m : Mstatus) : (s.setMstatus m).rnmi = s.rnmi := rfl
@[simp] theorem State.setMstatus_units (s : State) (m : Mstatus) : (s.setMstatus m).units = s.units := rfl
@[simp] theorem State.setMstatus_pmp (s : State) (m : Mstatus) : (s.setMstatus m).pmp = s.pmp := rfl
@[simp] theorem State.setMstatus_wait (s : State) (m : Mstatus) : (s.setMstatus m).wait = s.wait := rfl
@[simp] theorem State.setMstatus_criticalError (s : State) (m : Mstatus) : (s.setMstatus m).criticalError = s.criticalError := rfl
@[simp] theorem State.setMstatus_reservation (s : State) (m : Mstatus) : (s.setMstatus m).reservation = s.reservation := rfl
@[simp] theorem State.setMstatus_elp (s : State) (m : Mstatus) : (s.setMstatus m).elp = s.elp := rfl
@[simp] theorem State.setMstatus_plat (s : State) (m : Mstatus) : (s.setMstatus m).plat = s.plat := rfl
@[simp] theorem State.setMstatus_inputs (s : State) (m : Mstatus) : (s.setMstatus m).inputs = s.inputs := rfl
@[simp] theorem State.setMstatus_mem (s : State) (m : Mstatus) : (s.setMstatus m).mem = s.mem := rfl
@[simp] theorem State.setMstatus_ctr (s : State) (m : Mstatus) : (s.setMstatus m).ctr = s.ctr := rfl

end Sys2Proof.Machine
end

