-- ==== Sys2Proof/Laws/Ops.lean ====
section
/-! SUPPORT. What each shared operation can do, said once: which fields it leaves alone, and the cases of its result. -/

namespace Sys2Proof.Machine

/-! ### Integer registers and pc -/

@[simp] theorem State.writeX_cfg (s : State) (xl : Xlen) (r : BitVec 5) (v : Word) : (s.writeX xl r v).cfg = s.cfg := by unfold State.writeX; split <;> rfl
@[simp] theorem State.writeX_priv (s : State) (xl : Xlen) (r : BitVec 5) (v : Word) : (s.writeX xl r v).priv = s.priv := by unfold State.writeX; split <;> rfl
@[simp] theorem State.writeX_pc (s : State) (xl : Xlen) (r : BitVec 5) (v : Word) : (s.writeX xl r v).pc = s.pc := by unfold State.writeX; split <;> rfl
@[simp] theorem State.writeX_csr (s : State) (xl : Xlen) (r : BitVec 5) (v : Word) : (s.writeX xl r v).csr = s.csr := by unfold State.writeX; split <;> rfl
@[simp] theorem State.writeX_cnt (s : State) (xl : Xlen) (r : BitVec 5) (v : Word) : (s.writeX xl r v).cnt = s.cnt := by unfold State.writeX; split <;> rfl
@[simp] theorem State.writeX_sup (s : State) (xl : Xlen) (r : BitVec 5) (v : Word) : (s.writeX xl r v).sup = s.sup := by unfold State.writeX; split <;> rfl
@[simp] theorem State.writeX_rnmi (s : State) (xl : Xlen) (r : BitVec 5) (v : Word) : (s.writeX xl r v).rnmi = s.rnmi := by unfold State.writeX; split <;> rfl
@[simp] theorem State.writeX_units (s : State) (xl : Xlen) (r : BitVec 5) (v : Word) : (s.writeX xl r v).units = s.units := by unfold State.writeX; split <;> rfl
@[simp] theorem State.writeX_pmp (s : State) (xl : Xlen) (r : BitVec 5) (v : Word) : (s.writeX xl r v).pmp = s.pmp := by unfold State.writeX; split <;> rfl
@[simp] theorem State.writeX_wait (s : State) (xl : Xlen) (r : BitVec 5) (v : Word) : (s.writeX xl r v).wait = s.wait := by unfold State.writeX; split <;> rfl
@[simp] theorem State.writeX_criticalError (s : State) (xl : Xlen) (r : BitVec 5) (v : Word) : (s.writeX xl r v).criticalError = s.criticalError := by unfold State.writeX; split <;> rfl
@[simp] theorem State.writeX_reservation (s : State) (xl : Xlen) (r : BitVec 5) (v : Word) : (s.writeX xl r v).reservation = s.reservation := by unfold State.writeX; split <;> rfl
@[simp] theorem State.writeX_elp (s : State) (xl : Xlen) (r : BitVec 5) (v : Word) : (s.writeX xl r v).elp = s.elp := by unfold State.writeX; split <;> rfl
@[simp] theorem State.writeX_plat (s : State) (xl : Xlen) (r : BitVec 5) (v : Word) : (s.writeX xl r v).plat = s.plat := by unfold State.writeX; split <;> rfl
@[simp] theorem State.writeX_inputs (s : State) (xl : Xlen) (r : BitVec 5) (v : Word) : (s.writeX xl r v).inputs = s.inputs := by unfold State.writeX; split <;> rfl
@[simp] theorem State.writeX_mem (s : State) (xl : Xlen) (r : BitVec 5) (v : Word) : (s.writeX xl r v).mem = s.mem := by unfold State.writeX; split <;> rfl
@[simp] theorem State.writeX_ctr (s : State) (xl : Xlen) (r : BitVec 5) (v : Word) : (s.writeX xl r v).ctr = s.ctr := by unfold State.writeX; split <;> rfl

@[simp] theorem State.jump_cfg (s : State) (t : Word) : (s.jump t).cfg = s.cfg := rfl
@[simp] theorem State.jump_priv (s : State) (t : Word) : (s.jump t).priv = s.priv := rfl
@[simp] theorem State.jump_x (s : State) (t : Word) : (s.jump t).x = s.x := rfl
@[simp] theorem State.jump_csr (s : State) (t : Word) : (s.jump t).csr = s.csr := rfl
@[simp] theorem State.jump_cnt (s : State) (t : Word) : (s.jump t).cnt = s.cnt := rfl
@[simp] theorem State.jump_sup (s : State) (t : Word) : (s.jump t).sup = s.sup := rfl
@[simp] theorem State.jump_rnmi (s : State) (t : Word) : (s.jump t).rnmi = s.rnmi := rfl
@[simp] theorem State.jump_units (s : State) (t : Word) : (s.jump t).units = s.units := rfl
@[simp] theorem State.jump_pmp (s : State) (t : Word) : (s.jump t).pmp = s.pmp := rfl
@[simp] theorem State.jump_wait (s : State) (t : Word) : (s.jump t).wait = s.wait := rfl
@[simp] theorem State.jump_criticalError (s : State) (t : Word) : (s.jump t).criticalError = s.criticalError := rfl
@[simp] theorem State.jump_reservation (s : State) (t : Word) : (s.jump t).reservation = s.reservation := rfl
@[simp] theorem State.jump_elp (s : State) (t : Word) : (s.jump t).elp = s.elp := rfl
@[simp] theorem State.jump_plat (s : State) (t : Word) : (s.jump t).plat = s.plat := rfl
@[simp] theorem State.jump_inputs (s : State) (t : Word) : (s.jump t).inputs = s.inputs := rfl
@[simp] theorem State.jump_mem (s : State) (t : Word) : (s.jump t).mem = s.mem := rfl
@[simp] theorem State.jump_ctr (s : State) (t : Word) : (s.jump t).ctr = s.ctr := rfl

@[simp] theorem State.jump_pc (s : State) (t : Word) : (s.jump t).pc = widen s.cfg.mxlen s.xlen t := rfl

/-- Reading a register after a write. -/
theorem State.writeX_x (s : State) (xl : Xlen) (r : BitVec 5) (v : Word) :
    (s.writeX xl r v).x = if r = 0 then s.x else s.x.set r.toNat (widen s.cfg.mxlen xl v) r.isLt := by
  unfold State.writeX; split <;> rfl

/-! ### Counters -/

theorem State.setCnt_asCsr (s : State) (n : Counters) :
    s.setCnt n = (s.setCnt n).setCsr { s.csr with lcofip := s.csr.lcofip } := rfl

/-- Counting changes counters, and of the CSRs `mip.LCOFIP` alone. -/
theorem State.countEvent_cases (s : State) (skip : Option CounterSel) (j : Nat) :
    ∃ n l, s.countEvent skip j = (s.setCnt n).setCsr { s.csr with lcofip := l } := by
  simp only [State.countEvent]
  split
  · exact ⟨s.cnt, s.csr.lcofip, rfl⟩
  · split
    · exact ⟨_, _, rfl⟩
    · exact ⟨_, _, s.setCnt_asCsr _⟩

theorem State.countEvents_cases (s : State) (skip : Option CounterSel) (j : Nat) :
    ∃ n l, s.countEvents skip j = (s.setCnt n).setCsr { s.csr with lcofip := l } := by
  induction j with
  | zero => exact ⟨s.cnt, s.csr.lcofip, rfl⟩
  | succ j ih =>
    obtain ⟨n, l, h⟩ := ih
    obtain ⟨n', l', h'⟩ := (s.countEvents skip j).countEvent_cases skip j
    simp only [State.countEvents]
    rw [h', h]
    exact ⟨_, _, rfl⟩

theorem State.countHpm_cases (s : State) (skip : Option CounterSel) :
    ∃ n l, s.countHpm skip = (s.setCnt n).setCsr { s.csr with lcofip := l } := by
  unfold State.countHpm
  split
  · exact ⟨s.cnt, s.csr.lcofip, rfl⟩
  · exact s.countEvents_cases skip 29

/-- Everything that counting a retired instruction can do. -/
theorem State.countRetired_cases (s : State) (skip : Option CounterSel) :
    ∃ n l, s.countRetired skip = (s.setCnt n).setCsr { s.csr with lcofip := l } := by
  unfold State.countRetired
  obtain ⟨n, l, h⟩ := State.countHpm_cases
    (s.setCnt { s.cnt with mcycle := s.nextMcycle skip, minstret := s.nextMinstret skip }) skip
  rw [h]
  exact ⟨_, _, rfl⟩

/-- Everything that counting a trapping instruction can do. -/
theorem State.countTrapped_cases (s : State) :
    ∃ n l, s.countTrapped = (s.setCnt n).setCsr { s.csr with lcofip := l } := by
  unfold State.countTrapped
  obtain ⟨n, l, h⟩ := State.countHpm_cases (s.setCnt { s.cnt with mcycle := s.nextMcycle none }) none
  rw [h]
  exact ⟨_, _, rfl⟩

/-- Without event counters a retired instruction changes `mcycle` and `minstret` alone. -/
theorem State.countRetired_noEvents (s : State) (skip : Option CounterSel) (h : s.cfg.hpmImpl = 0) :
    s.countRetired skip = s.setCnt { s.cnt with mcycle := s.nextMcycle skip, minstret := s.nextMinstret skip } := by
  simp [State.countRetired, State.countHpm, h]

/-- Without event counters a trapping instruction changes `mcycle` alone. -/
theorem State.countTrapped_noEvents (s : State) (h : s.cfg.hpmImpl = 0) :
    s.countTrapped = s.setCnt { s.cnt with mcycle := s.nextMcycle none } := by
  simp [State.countTrapped, State.countHpm, h]

theorem State.countEvent_minstret (s : State) (skip : Option CounterSel) (j : Nat) :
    (s.countEvent skip j).cnt.minstret = s.cnt.minstret := by
  simp only [State.countEvent]
  repeat' split
  all_goals rfl

theorem State.countEvents_minstret (s : State) (skip : Option CounterSel) (j : Nat) :
    (s.countEvents skip j).cnt.minstret = s.cnt.minstret := by
  induction j with
  | zero => rfl
  | succ j ih => simp only [State.countEvents]; rw [State.countEvent_minstret, ih]

theorem State.countHpm_minstret (s : State) (skip : Option CounterSel) :
    (s.countHpm skip).cnt.minstret = s.cnt.minstret := by
  unfold State.countHpm
  split
  · rfl
  · exact s.countEvents_minstret skip 29

/-- `minstret` after an instruction that retires. -/
@[simp] theorem State.countRetired_minstret (s : State) (skip : Option CounterSel) :
    (s.countRetired skip).cnt.minstret = s.nextMinstret skip := by
  unfold State.countRetired
  rw [State.countHpm_minstret]
  rfl

/-- `minstret` after an instruction that traps. -/
@[simp] theorem State.countTrapped_minstret (s : State) : s.countTrapped.cnt.minstret = s.cnt.minstret := by
  unfold State.countTrapped
  rw [State.countHpm_minstret]
  rfl

@[simp] theorem State.countRetired_cfg (s : State) (skip : Option CounterSel) : (s.countRetired skip).cfg = s.cfg := by obtain ⟨n, l, h⟩ := s.countRetired_cases skip; rw [h]; rfl
@[simp] theorem State.countRetired_priv (s : State) (skip : Option CounterSel) : (s.countRetired skip).priv = s.priv := by obtain ⟨n, l, h⟩ := s.countRetired_cases skip; rw [h]; rfl
@[simp] theorem State.countRetired_pc (s : State) (skip : Option CounterSel) : (s.countRetired skip).pc = s.pc := by obtain ⟨n, l, h⟩ := s.countRetired_cases skip; rw [h]; rfl
@[simp] theorem State.countRetired_x (s : State) (skip : Option CounterSel) : (s.countRetired skip).x = s.x := by obtain ⟨n, l, h⟩ := s.countRetired_cases skip; rw [h]; rfl
@[simp] theorem State.countRetired_sup (s : State) (skip : Option CounterSel) : (s.countRetired skip).sup = s.sup := by obtain ⟨n, l, h⟩ := s.countRetired_cases skip; rw [h]; rfl
@[simp] theorem State.countRetired_rnmi (s : State) (skip : Option CounterSel) : (s.countRetired skip).rnmi = s.rnmi := by obtain ⟨n, l, h⟩ := s.countRetired_cases skip; rw [h]; rfl
@[simp] theorem State.countRetired_units (s : State) (skip : Option CounterSel) : (s.countRetired skip).units = s.units := by obtain ⟨n, l, h⟩ := s.countRetired_cases skip; rw [h]; rfl
@[simp] theorem State.countRetired_pmp (s : State) (skip : Option CounterSel) : (s.countRetired skip).pmp = s.pmp := by obtain ⟨n, l, h⟩ := s.countRetired_cases skip; rw [h]; rfl
@[simp] theorem State.countRetired_wait (s : State) (skip : Option CounterSel) : (s.countRetired skip).wait = s.wait := by obtain ⟨n, l, h⟩ := s.countRetired_cases skip; rw [h]; rfl
@[simp] theorem State.countRetired_criticalError (s : State) (skip : Option CounterSel) : (s.countRetired skip).criticalError = s.criticalError := by obtain ⟨n, l, h⟩ := s.countRetired_cases skip; rw [h]; rfl
@[simp] theorem State.countRetired_reservation (s : State) (skip : Option CounterSel) : (s.countRetired skip).reservation = s.reservation := by obtain ⟨n, l, h⟩ := s.countRetired_cases skip; rw [h]; rfl
@[simp] theorem State.countRetired_elp (s : State) (skip : Option CounterSel) : (s.countRetired skip).elp = s.elp := by obtain ⟨n, l, h⟩ := s.countRetired_cases skip; rw [h]; rfl
@[simp] theorem State.countRetired_plat (s : State) (skip : Option CounterSel) : (s.countRetired skip).plat = s.plat := by obtain ⟨n, l, h⟩ := s.countRetired_cases skip; rw [h]; rfl
@[simp] theorem State.countRetired_inputs (s : State) (skip : Option CounterSel) : (s.countRetired skip).inputs = s.inputs := by obtain ⟨n, l, h⟩ := s.countRetired_cases skip; rw [h]; rfl
@[simp] theorem State.countRetired_mem (s : State) (skip : Option CounterSel) : (s.countRetired skip).mem = s.mem := by obtain ⟨n, l, h⟩ := s.countRetired_cases skip; rw [h]; rfl
@[simp] theorem State.countRetired_ctr (s : State) (skip : Option CounterSel) : (s.countRetired skip).ctr = s.ctr := by obtain ⟨n, l, h⟩ := s.countRetired_cases skip; rw [h]; rfl

@[simp] theorem State.countRetired_mstatus (s : State) (skip : Option CounterSel) : (s.countRetired skip).csr.mstatus = s.csr.mstatus := by
  obtain ⟨n, l, h⟩ := s.countRetired_cases skip; rw [h]; rfl
@[simp] theorem State.countRetired_misa (s : State) (skip : Option CounterSel) : (s.countRetired skip).csr.misa = s.csr.misa := by
  obtain ⟨n, l, h⟩ := s.countRetired_cases skip; rw [h]; rfl

@[simp] theorem State.countTrapped_cfg (s : State)  : (s.countTrapped).cfg = s.cfg := by obtain ⟨n, l, h⟩ := s.countTrapped_cases; rw [h]; rfl
@[simp] theorem State.countTrapped_priv (s : State)  : (s.countTrapped).priv = s.priv := by obtain ⟨n, l, h⟩ := s.countTrapped_cases; rw [h]; rfl
@[simp] theorem State.countTrapped_pc (s : State)  : (s.countTrapped).pc = s.pc := by obtain ⟨n, l, h⟩ := s.countTrapped_cases; rw [h]; rfl
@[simp] theorem State.countTrapped_x (s : State)  : (s.countTrapped).x = s.x := by obtain ⟨n, l, h⟩ := s.countTrapped_cases; rw [h]; rfl
@[simp] theorem State.countTrapped_sup (s : State)  : (s.countTrapped).sup = s.sup := by obtain ⟨n, l, h⟩ := s.countTrapped_cases; rw [h]; rfl
@[simp] theorem State.countTrapped_rnmi (s : State)  : (s.countTrapped).rnmi = s.rnmi := by obtain ⟨n, l, h⟩ := s.countTrapped_cases; rw [h]; rfl
@[simp] theorem State.countTrapped_units (s : State)  : (s.countTrapped).units = s.units := by obtain ⟨n, l, h⟩ := s.countTrapped_cases; rw [h]; rfl
@[simp] theorem State.countTrapped_pmp (s : State)  : (s.countTrapped).pmp = s.pmp := by obtain ⟨n, l, h⟩ := s.countTrapped_cases; rw [h]; rfl
@[simp] theorem State.countTrapped_wait (s : State)  : (s.countTrapped).wait = s.wait := by obtain ⟨n, l, h⟩ := s.countTrapped_cases; rw [h]; rfl
@[simp] theorem State.countTrapped_criticalError (s : State)  : (s.countTrapped).criticalError = s.criticalError := by obtain ⟨n, l, h⟩ := s.countTrapped_cases; rw [h]; rfl
@[simp] theorem State.countTrapped_reservation (s : State)  : (s.countTrapped).reservation = s.reservation := by obtain ⟨n, l, h⟩ := s.countTrapped_cases; rw [h]; rfl
@[simp] theorem State.countTrapped_elp (s : State)  : (s.countTrapped).elp = s.elp := by obtain ⟨n, l, h⟩ := s.countTrapped_cases; rw [h]; rfl
@[simp] theorem State.countTrapped_plat (s : State)  : (s.countTrapped).plat = s.plat := by obtain ⟨n, l, h⟩ := s.countTrapped_cases; rw [h]; rfl
@[simp] theorem State.countTrapped_inputs (s : State)  : (s.countTrapped).inputs = s.inputs := by obtain ⟨n, l, h⟩ := s.countTrapped_cases; rw [h]; rfl
@[simp] theorem State.countTrapped_mem (s : State)  : (s.countTrapped).mem = s.mem := by obtain ⟨n, l, h⟩ := s.countTrapped_cases; rw [h]; rfl
@[simp] theorem State.countTrapped_ctr (s : State)  : (s.countTrapped).ctr = s.ctr := by obtain ⟨n, l, h⟩ := s.countTrapped_cases; rw [h]; rfl

@[simp] theorem State.countTrapped_mstatus (s : State) : s.countTrapped.csr.mstatus = s.csr.mstatus := by
  obtain ⟨n, l, h⟩ := s.countTrapped_cases; rw [h]; rfl
@[simp] theorem State.countTrapped_misa (s : State) : s.countTrapped.csr.misa = s.csr.misa := by
  obtain ⟨n, l, h⟩ := s.countTrapped_cases; rw [h]; rfl

/-- Everything that counting a step without an instruction can do. -/
theorem State.countIdle_cases (s : State) :
    ∃ n l, s.countIdle = (s.setCnt n).setCsr { s.csr with lcofip := l } := by
  unfold State.countIdle
  split
  · exact ⟨s.cnt, s.csr.lcofip, rfl⟩
  · exact s.countTrapped_cases

/-- Where `mcycle` counts executed instructions alone, a step without an instruction counts nothing. -/
theorem State.countIdle_one (s : State) (h : s.cfg.mcycleStep = .one) : s.countIdle = s := by
  simp [State.countIdle, h]

@[simp] theorem State.countIdle_minstret (s : State) : s.countIdle.cnt.minstret = s.cnt.minstret := by
  unfold State.countIdle
  split
  · rfl
  · exact s.countTrapped_minstret

@[simp] theorem State.countIdle_cfg (s : State) : s.countIdle.cfg = s.cfg := by obtain ⟨n, l, h⟩ := s.countIdle_cases; rw [h]; rfl
@[simp] theorem State.countIdle_priv (s : State) : s.countIdle.priv = s.priv := by obtain ⟨n, l, h⟩ := s.countIdle_cases; rw [h]; rfl
@[simp] theorem State.countIdle_pc (s : State) : s.countIdle.pc = s.pc := by obtain ⟨n, l, h⟩ := s.countIdle_cases; rw [h]; rfl
@[simp] theorem State.countIdle_x (s : State) : s.countIdle.x = s.x := by obtain ⟨n, l, h⟩ := s.countIdle_cases; rw [h]; rfl
@[simp] theorem State.countIdle_sup (s : State) : s.countIdle.sup = s.sup := by obtain ⟨n, l, h⟩ := s.countIdle_cases; rw [h]; rfl
@[simp] theorem State.countIdle_rnmi (s : State) : s.countIdle.rnmi = s.rnmi := by obtain ⟨n, l, h⟩ := s.countIdle_cases; rw [h]; rfl
@[simp] theorem State.countIdle_units (s : State) : s.countIdle.units = s.units := by obtain ⟨n, l, h⟩ := s.countIdle_cases; rw [h]; rfl
@[simp] theorem State.countIdle_pmp (s : State) : s.countIdle.pmp = s.pmp := by obtain ⟨n, l, h⟩ := s.countIdle_cases; rw [h]; rfl
@[simp] theorem State.countIdle_wait (s : State) : s.countIdle.wait = s.wait := by obtain ⟨n, l, h⟩ := s.countIdle_cases; rw [h]; rfl
@[simp] theorem State.countIdle_criticalError (s : State) : s.countIdle.criticalError = s.criticalError := by obtain ⟨n, l, h⟩ := s.countIdle_cases; rw [h]; rfl
@[simp] theorem State.countIdle_reservation (s : State) : s.countIdle.reservation = s.reservation := by obtain ⟨n, l, h⟩ := s.countIdle_cases; rw [h]; rfl
@[simp] theorem State.countIdle_elp (s : State) : s.countIdle.elp = s.elp := by obtain ⟨n, l, h⟩ := s.countIdle_cases; rw [h]; rfl
@[simp] theorem State.countIdle_plat (s : State) : s.countIdle.plat = s.plat := by obtain ⟨n, l, h⟩ := s.countIdle_cases; rw [h]; rfl
@[simp] theorem State.countIdle_inputs (s : State) : s.countIdle.inputs = s.inputs := by obtain ⟨n, l, h⟩ := s.countIdle_cases; rw [h]; rfl
@[simp] theorem State.countIdle_mem (s : State) : s.countIdle.mem = s.mem := by obtain ⟨n, l, h⟩ := s.countIdle_cases; rw [h]; rfl
@[simp] theorem State.countIdle_ctr (s : State) : s.countIdle.ctr = s.ctr := by obtain ⟨n, l, h⟩ := s.countIdle_cases; rw [h]; rfl
@[simp] theorem State.countIdle_mstatus (s : State) : s.countIdle.csr.mstatus = s.csr.mstatus := by
  obtain ⟨n, l, h⟩ := s.countIdle_cases; rw [h]; rfl
@[simp] theorem State.countIdle_misa (s : State) : s.countIdle.csr.misa = s.csr.misa := by
  obtain ⟨n, l, h⟩ := s.countIdle_cases; rw [h]; rfl

@[simp] theorem State.retire_cfg (s : State) (n : Nat) : (s.retire n).cfg = s.cfg := by simp [State.retire]
@[simp] theorem State.retire_priv (s : State) (n : Nat) : (s.retire n).priv = s.priv := by simp [State.retire]
@[simp] theorem State.retire_x (s : State) (n : Nat) : (s.retire n).x = s.x := by simp [State.retire]
@[simp] theorem State.retire_sup (s : State) (n : Nat) : (s.retire n).sup = s.sup := by simp [State.retire]
@[simp] theorem State.retire_rnmi (s : State) (n : Nat) : (s.retire n).rnmi = s.rnmi := by simp [State.retire]
@[simp] theorem State.retire_units (s : State) (n : Nat) : (s.retire n).units = s.units := by simp [State.retire]
@[simp] theorem State.retire_pmp (s : State) (n : Nat) : (s.retire n).pmp = s.pmp := by simp [State.retire]
@[simp] theorem State.retire_wait (s : State) (n : Nat) : (s.retire n).wait = s.wait := by simp [State.retire]
@[simp] theorem State.retire_criticalError (s : State) (n : Nat) : (s.retire n).criticalError = s.criticalError := by simp [State.retire]
@[simp] theorem State.retire_reservation (s : State) (n : Nat) : (s.retire n).reservation = s.reservation := by simp [State.retire]
@[simp] theorem State.retire_elp (s : State) (n : Nat) : (s.retire n).elp = s.elp := by simp [State.retire]
@[simp] theorem State.retire_plat (s : State) (n : Nat) : (s.retire n).plat = s.plat := by simp [State.retire]
@[simp] theorem State.retire_inputs (s : State) (n : Nat) : (s.retire n).inputs = s.inputs := by simp [State.retire]
@[simp] theorem State.retire_mem (s : State) (n : Nat) : (s.retire n).mem = s.mem := by simp [State.retire]
@[simp] theorem State.retire_ctr (s : State) (n : Nat) : (s.retire n).ctr = s.ctr := by simp [State.retire]

/-! ### `ELP` after an indirect jump or LPAD -/

@[simp] theorem State.elpStep_cfg (s : State) : s.elpStep.cfg = s.cfg := rfl
@[simp] theorem State.elpStep_priv (s : State) : s.elpStep.priv = s.priv := rfl
@[simp] theorem State.elpStep_pc (s : State) : s.elpStep.pc = s.pc := rfl
@[simp] theorem State.elpStep_x (s : State) : s.elpStep.x = s.x := rfl
@[simp] theorem State.elpStep_csr (s : State) : s.elpStep.csr = s.csr := rfl
@[simp] theorem State.elpStep_cnt (s : State) : s.elpStep.cnt = s.cnt := rfl
@[simp] theorem State.elpStep_sup (s : State) : s.elpStep.sup = s.sup := rfl
@[simp] theorem State.elpStep_rnmi (s : State) : s.elpStep.rnmi = s.rnmi := rfl
@[simp] theorem State.elpStep_units (s : State) : s.elpStep.units = s.units := rfl
@[simp] theorem State.elpStep_pmp (s : State) : s.elpStep.pmp = s.pmp := rfl
@[simp] theorem State.elpStep_wait (s : State) : s.elpStep.wait = s.wait := rfl
@[simp] theorem State.elpStep_criticalError (s : State) : s.elpStep.criticalError = s.criticalError := rfl
@[simp] theorem State.elpStep_reservation (s : State) : s.elpStep.reservation = s.reservation := rfl
@[simp] theorem State.elpStep_plat (s : State) : s.elpStep.plat = s.plat := rfl
@[simp] theorem State.elpStep_inputs (s : State) : s.elpStep.inputs = s.inputs := rfl
@[simp] theorem State.elpStep_mem (s : State) : s.elpStep.mem = s.mem := rfl
@[simp] theorem State.elpStep_ctr (s : State) : s.elpStep.ctr = s.ctr := rfl
@[simp] theorem State.elpStep_elp (s : State) : s.elpStep.elp = s.elpIn s.priv := rfl

/-! ### Traps -/

@[simp] theorem State.enterRnmi_cfg (s : State) (f : Priv) (c : Word) : (s.enterRnmi f c).cfg = s.cfg := rfl
@[simp] theorem State.enterRnmi_x (s : State) (f : Priv) (c : Word) : (s.enterRnmi f c).x = s.x := rfl
@[simp] theorem State.enterRnmi_csr (s : State) (f : Priv) (c : Word) : (s.enterRnmi f c).csr = s.csr := rfl
@[simp] theorem State.enterRnmi_cnt (s : State) (f : Priv) (c : Word) : (s.enterRnmi f c).cnt = s.cnt := rfl
@[simp] theorem State.enterRnmi_sup (s : State) (f : Priv) (c : Word) : (s.enterRnmi f c).sup = s.sup := rfl
@[simp] theorem State.enterRnmi_units (s : State) (f : Priv) (c : Word) : (s.enterRnmi f c).units = s.units := rfl
@[simp] theorem State.enterRnmi_pmp (s : State) (f : Priv) (c : Word) : (s.enterRnmi f c).pmp = s.pmp := rfl
@[simp] theorem State.enterRnmi_criticalError (s : State) (f : Priv) (c : Word) : (s.enterRnmi f c).criticalError = s.criticalError := rfl
@[simp] theorem State.enterRnmi_reservation (s : State) (f : Priv) (c : Word) : (s.enterRnmi f c).reservation = s.reservation := rfl
@[simp] theorem State.enterRnmi_elp (s : State) (f : Priv) (c : Word) : (s.enterRnmi f c).elp = s.elpIn .m := rfl
@[simp] theorem State.enterRnmi_plat (s : State) (f : Priv) (c : Word) : (s.enterRnmi f c).plat = s.plat := rfl
@[simp] theorem State.enterRnmi_inputs (s : State) (f : Priv) (c : Word) : (s.enterRnmi f c).inputs = s.inputs := rfl
@[simp] theorem State.enterRnmi_mem (s : State) (f : Priv) (c : Word) : (s.enterRnmi f c).mem = s.mem := rfl
@[simp] theorem State.enterRnmi_ctr (s : State) (f : Priv) (c : Word) : (s.enterRnmi f c).ctr = s.ctr := rfl

@[simp] theorem State.enterM_cfg (s : State) (i : Bool) (c : Nat) (t : Word) : (s.enterM i c t).cfg = s.cfg := rfl
@[simp] theorem State.enterM_x (s : State) (i : Bool) (c : Nat) (t : Word) : (s.enterM i c t).x = s.x := rfl
@[simp] theorem State.enterM_cnt (s : State) (i : Bool) (c : Nat) (t : Word) : (s.enterM i c t).cnt = s.cnt := rfl
@[simp] theorem State.enterM_sup (s : State) (i : Bool) (c : Nat) (t : Word) : (s.enterM i c t).sup = s.sup := rfl
@[simp] theorem State.enterM_rnmi (s : State) (i : Bool) (c : Nat) (t : Word) : (s.enterM i c t).rnmi = s.rnmi := rfl
@[simp] theorem State.enterM_units (s : State) (i : Bool) (c : Nat) (t : Word) : (s.enterM i c t).units = s.units := rfl
@[simp] theorem State.enterM_pmp (s : State) (i : Bool) (c : Nat) (t : Word) : (s.enterM i c t).pmp = s.pmp := rfl
@[simp] theorem State.enterM_criticalError (s : State) (i : Bool) (c : Nat) (t : Word) : (s.enterM i c t).criticalError = s.criticalError := rfl
@[simp] theorem State.enterM_reservation (s : State) (i : Bool) (c : Nat) (t : Word) : (s.enterM i c t).reservation = s.reservation := rfl
@[simp] theorem State.enterM_plat (s : State) (i : Bool) (c : Nat) (t : Word) : (s.enterM i c t).plat = s.plat := rfl
@[simp] theorem State.enterM_inputs (s : State) (i : Bool) (c : Nat) (t : Word) : (s.enterM i c t).inputs = s.inputs := rfl
@[simp] theorem State.enterM_mem (s : State) (i : Bool) (c : Nat) (t : Word) : (s.enterM i c t).mem = s.mem := rfl
@[simp] theorem State.enterM_ctr (s : State) (i : Bool) (c : Nat) (t : Word) : (s.enterM i c t).ctr = s.ctr := rfl

@[simp] theorem State.enterS_cfg (s : State) (i : Bool) (c : Nat) (t : Word) : (s.enterS i c t).cfg = s.cfg := rfl
@[simp] theorem State.enterS_x (s : State) (i : Bool) (c : Nat) (t : Word) : (s.enterS i c t).x = s.x := rfl
@[simp] theorem State.enterS_cnt (s : State) (i : Bool) (c : Nat) (t : Word) : (s.enterS i c t).cnt = s.cnt := rfl
@[simp] theorem State.enterS_rnmi (s : State) (i : Bool) (c : Nat) (t : Word) : (s.enterS i c t).rnmi = s.rnmi := rfl
@[simp] theorem State.enterS_units (s : State) (i : Bool) (c : Nat) (t : Word) : (s.enterS i c t).units = s.units := rfl
@[simp] theorem State.enterS_pmp (s : State) (i : Bool) (c : Nat) (t : Word) : (s.enterS i c t).pmp = s.pmp := rfl
@[simp] theorem State.enterS_criticalError (s : State) (i : Bool) (c : Nat) (t : Word) : (s.enterS i c t).criticalError = s.criticalError := rfl
@[simp] theorem State.enterS_reservation (s : State) (i : Bool) (c : Nat) (t : Word) : (s.enterS i c t).reservation = s.reservation := rfl
@[simp] theorem State.enterS_plat (s : State) (i : Bool) (c : Nat) (t : Word) : (s.enterS i c t).plat = s.plat := rfl
@[simp] theorem State.enterS_inputs (s : State) (i : Bool) (c : Nat) (t : Word) : (s.enterS i c t).inputs = s.inputs := rfl
@[simp] theorem State.enterS_mem (s : State) (i : Bool) (c : Nat) (t : Word) : (s.enterS i c t).mem = s.mem := rfl
@[simp] theorem State.enterS_ctr (s : State) (i : Bool) (c : Nat) (t : Word) : (s.enterS i c t).ctr = s.ctr := rfl

@[simp] theorem State.trapM_cfg (s : State) (i : Bool) (c : Nat) (t : Word) : (s.trapM i c t).cfg = s.cfg := by
  unfold State.trapM
  repeat' split
  all_goals rfl
@[simp] theorem State.trapM_x (s : State) (i : Bool) (c : Nat) (t : Word) : (s.trapM i c t).x = s.x := by
  unfold State.trapM
  repeat' split
  all_goals rfl
@[simp] theorem State.trapM_cnt (s : State) (i : Bool) (c : Nat) (t : Word) : (s.trapM i c t).cnt = s.cnt := by
  unfold State.trapM
  repeat' split
  all_goals rfl
@[simp] theorem State.trapM_sup (s : State) (i : Bool) (c : Nat) (t : Word) : (s.trapM i c t).sup = s.sup := by
  unfold State.trapM
  repeat' split
  all_goals rfl
@[simp] theorem State.trapM_units (s : State) (i : Bool) (c : Nat) (t : Word) : (s.trapM i c t).units = s.units := by
  unfold State.trapM
  repeat' split
  all_goals rfl
@[simp] theorem State.trapM_pmp (s : State) (i : Bool) (c : Nat) (t : Word) : (s.trapM i c t).pmp = s.pmp := by
  unfold State.trapM
  repeat' split
  all_goals rfl
@[simp] theorem State.trapM_reservation (s : State) (i : Bool) (c : Nat) (t : Word) : (s.trapM i c t).reservation = s.reservation := by
  unfold State.trapM
  repeat' split
  all_goals rfl
@[simp] theorem State.trapM_plat (s : State) (i : Bool) (c : Nat) (t : Word) : (s.trapM i c t).plat = s.plat := by
  unfold State.trapM
  repeat' split
  all_goals rfl
@[simp] theorem State.trapM_inputs (s : State) (i : Bool) (c : Nat) (t : Word) : (s.trapM i c t).inputs = s.inputs := by
  unfold State.trapM
  repeat' split
  all_goals rfl
@[simp] theorem State.trapM_mem (s : State) (i : Bool) (c : Nat) (t : Word) : (s.trapM i c t).mem = s.mem := by
  unfold State.trapM
  repeat' split
  all_goals rfl
@[simp] theorem State.trapM_ctr (s : State) (i : Bool) (c : Nat) (t : Word) : (s.trapM i c t).ctr = s.ctr := by
  unfold State.trapM
  repeat' split
  all_goals rfl

@[simp] theorem State.trapS_cfg (s : State) (i : Bool) (c : Nat) (t : Word) : (s.trapS i c t).cfg = s.cfg := by unfold State.trapS; split <;> simp
@[simp] theorem State.trapS_x (s : State) (i : Bool) (c : Nat) (t : Word) : (s.trapS i c t).x = s.x := by unfold State.trapS; split <;> simp
@[simp] theorem State.trapS_cnt (s : State) (i : Bool) (c : Nat) (t : Word) : (s.trapS i c t).cnt = s.cnt := by unfold State.trapS; split <;> simp
@[simp] theorem State.trapS_units (s : State) (i : Bool) (c : Nat) (t : Word) : (s.trapS i c t).units = s.units := by unfold State.trapS; split <;> simp
@[simp] theorem State.trapS_pmp (s : State) (i : Bool) (c : Nat) (t : Word) : (s.trapS i c t).pmp = s.pmp := by unfold State.trapS; split <;> simp
@[simp] theorem State.trapS_reservation (s : State) (i : Bool) (c : Nat) (t : Word) : (s.trapS i c t).reservation = s.reservation := by unfold State.trapS; split <;> simp
@[simp] theorem State.trapS_plat (s : State) (i : Bool) (c : Nat) (t : Word) : (s.trapS i c t).plat = s.plat := by unfold State.trapS; split <;> simp
@[simp] theorem State.trapS_inputs (s : State) (i : Bool) (c : Nat) (t : Word) : (s.trapS i c t).inputs = s.inputs := by unfold State.trapS; split <;> simp
@[simp] theorem State.trapS_mem (s : State) (i : Bool) (c : Nat) (t : Word) : (s.trapS i c t).mem = s.mem := by unfold State.trapS; split <;> simp
@[simp] theorem State.trapS_ctr (s : State) (i : Bool) (c : Nat) (t : Word) : (s.trapS i c t).ctr = s.ctr := by unfold State.trapS; split <;> simp

@[simp] theorem State.deliver_cfg (s : State) (b i : Bool) (c : Nat) (t : Word) : (s.deliver b i c t).cfg = s.cfg := by unfold State.deliver; split <;> simp
@[simp] theorem State.deliver_x (s : State) (b i : Bool) (c : Nat) (t : Word) : (s.deliver b i c t).x = s.x := by unfold State.deliver; split <;> simp
@[simp] theorem State.deliver_cnt (s : State) (b i : Bool) (c : Nat) (t : Word) : (s.deliver b i c t).cnt = s.cnt := by unfold State.deliver; split <;> simp
@[simp] theorem State.deliver_units (s : State) (b i : Bool) (c : Nat) (t : Word) : (s.deliver b i c t).units = s.units := by unfold State.deliver; split <;> simp
@[simp] theorem State.deliver_pmp (s : State) (b i : Bool) (c : Nat) (t : Word) : (s.deliver b i c t).pmp = s.pmp := by unfold State.deliver; split <;> simp
@[simp] theorem State.deliver_reservation (s : State) (b i : Bool) (c : Nat) (t : Word) : (s.deliver b i c t).reservation = s.reservation := by unfold State.deliver; split <;> simp
@[simp] theorem State.deliver_plat (s : State) (b i : Bool) (c : Nat) (t : Word) : (s.deliver b i c t).plat = s.plat := by unfold State.deliver; split <;> simp
@[simp] theorem State.deliver_inputs (s : State) (b i : Bool) (c : Nat) (t : Word) : (s.deliver b i c t).inputs = s.inputs := by unfold State.deliver; split <;> simp
@[simp] theorem State.deliver_mem (s : State) (b i : Bool) (c : Nat) (t : Word) : (s.deliver b i c t).mem = s.mem := by unfold State.deliver; split <;> simp
@[simp] theorem State.deliver_ctr (s : State) (b i : Bool) (c : Nat) (t : Word) : (s.deliver b i c t).ctr = s.ctr := by unfold State.deliver; split <;> simp

@[simp] theorem State.raise_cfg (s : State) (c : Nat) (t : Word) : (s.raise c t).cfg = s.cfg := by unfold State.raise; split <;> simp
@[simp] theorem State.raise_x (s : State) (c : Nat) (t : Word) : (s.raise c t).x = s.x := by unfold State.raise; split <;> simp
@[simp] theorem State.raise_units (s : State) (c : Nat) (t : Word) : (s.raise c t).units = s.units := by unfold State.raise; split <;> simp
@[simp] theorem State.raise_pmp (s : State) (c : Nat) (t : Word) : (s.raise c t).pmp = s.pmp := by unfold State.raise; split <;> simp
@[simp] theorem State.raise_reservation (s : State) (c : Nat) (t : Word) : (s.raise c t).reservation = s.reservation := by unfold State.raise; split <;> simp
@[simp] theorem State.raise_plat (s : State) (c : Nat) (t : Word) : (s.raise c t).plat = s.plat := by unfold State.raise; split <;> simp
@[simp] theorem State.raise_inputs (s : State) (c : Nat) (t : Word) : (s.raise c t).inputs = s.inputs := by unfold State.raise; split <;> simp
@[simp] theorem State.raise_mem (s : State) (c : Nat) (t : Word) : (s.raise c t).mem = s.mem := by unfold State.raise; split <;> simp
@[simp] theorem State.raise_ctr (s : State) (c : Nat) (t : Word) : (s.raise c t).ctr = s.ctr := by unfold State.raise; split <;> simp

@[simp] theorem State.illegal_cfg (s : State) (w : BitVec 32) : (s.illegal w).cfg = s.cfg := by simp [State.illegal]
@[simp] theorem State.illegal_x (s : State) (w : BitVec 32) : (s.illegal w).x = s.x := by simp [State.illegal]
@[simp] theorem State.illegal_units (s : State) (w : BitVec 32) : (s.illegal w).units = s.units := by simp [State.illegal]
@[simp] theorem State.illegal_pmp (s : State) (w : BitVec 32) : (s.illegal w).pmp = s.pmp := by simp [State.illegal]
@[simp] theorem State.illegal_reservation (s : State) (w : BitVec 32) : (s.illegal w).reservation = s.reservation := by simp [State.illegal]
@[simp] theorem State.illegal_plat (s : State) (w : BitVec 32) : (s.illegal w).plat = s.plat := by simp [State.illegal]
@[simp] theorem State.illegal_inputs (s : State) (w : BitVec 32) : (s.illegal w).inputs = s.inputs := by simp [State.illegal]
@[simp] theorem State.illegal_mem (s : State) (w : BitVec 32) : (s.illegal w).mem = s.mem := by simp [State.illegal]
@[simp] theorem State.illegal_ctr (s : State) (w : BitVec 32) : (s.illegal w).ctr = s.ctr := by simp [State.illegal]

@[simp] theorem State.takeInterrupt_cfg (s : State) (b : Bool) (c : Nat) : (s.takeInterrupt b c).cfg = s.cfg := by unfold State.takeInterrupt; split <;> simp
@[simp] theorem State.takeInterrupt_x (s : State) (b : Bool) (c : Nat) : (s.takeInterrupt b c).x = s.x := by unfold State.takeInterrupt; split <;> simp
@[simp] theorem State.takeInterrupt_units (s : State) (b : Bool) (c : Nat) : (s.takeInterrupt b c).units = s.units := by unfold State.takeInterrupt; split <;> simp
@[simp] theorem State.takeInterrupt_pmp (s : State) (b : Bool) (c : Nat) : (s.takeInterrupt b c).pmp = s.pmp := by unfold State.takeInterrupt; split <;> simp
@[simp] theorem State.takeInterrupt_reservation (s : State) (b : Bool) (c : Nat) : (s.takeInterrupt b c).reservation = s.reservation := by unfold State.takeInterrupt; split <;> simp
@[simp] theorem State.takeInterrupt_plat (s : State) (b : Bool) (c : Nat) : (s.takeInterrupt b c).plat = s.plat := by unfold State.takeInterrupt; split <;> simp
@[simp] theorem State.takeInterrupt_inputs (s : State) (b : Bool) (c : Nat) : (s.takeInterrupt b c).inputs = s.inputs := by unfold State.takeInterrupt; split <;> simp
@[simp] theorem State.takeInterrupt_mem (s : State) (b : Bool) (c : Nat) : (s.takeInterrupt b c).mem = s.mem := by unfold State.takeInterrupt; split <;> simp
@[simp] theorem State.takeInterrupt_ctr (s : State) (b : Bool) (c : Nat) : (s.takeInterrupt b c).ctr = s.ctr := by unfold State.takeInterrupt; split <;> simp
@[simp] theorem State.takeInterrupt_minstret (s : State) (b : Bool) (c : Nat) :
    (s.takeInterrupt b c).cnt.minstret = s.cnt.minstret := by
  unfold State.takeInterrupt
  split <;> simp

@[simp] theorem State.enterNmi_cfg (s : State)  : (s.enterNmi).cfg = s.cfg := rfl
@[simp] theorem State.enterNmi_x (s : State)  : (s.enterNmi).x = s.x := rfl
@[simp] theorem State.enterNmi_cnt (s : State)  : (s.enterNmi).cnt = s.cnt := rfl
@[simp] theorem State.enterNmi_sup (s : State)  : (s.enterNmi).sup = s.sup := rfl
@[simp] theorem State.enterNmi_rnmi (s : State)  : (s.enterNmi).rnmi = s.rnmi := rfl
@[simp] theorem State.enterNmi_units (s : State)  : (s.enterNmi).units = s.units := rfl
@[simp] theorem State.enterNmi_pmp (s : State)  : (s.enterNmi).pmp = s.pmp := rfl
@[simp] theorem State.enterNmi_reservation (s : State)  : (s.enterNmi).reservation = s.reservation := rfl
@[simp] theorem State.enterNmi_elp (s : State)  : (s.enterNmi).elp = s.elpIn .m := rfl
@[simp] theorem State.enterNmi_plat (s : State)  : (s.enterNmi).plat = s.plat := rfl
@[simp] theorem State.enterNmi_inputs (s : State)  : (s.enterNmi).inputs = s.inputs := rfl
@[simp] theorem State.enterNmi_mem (s : State)  : (s.enterNmi).mem = s.mem := rfl
@[simp] theorem State.enterNmi_ctr (s : State)  : (s.enterNmi).ctr = s.ctr := rfl

@[simp] theorem State.takeNmi_cfg (s : State)  : (s.takeNmi).cfg = s.cfg := by
  unfold State.takeNmi
  repeat' split
  all_goals simp
@[simp] theorem State.takeNmi_x (s : State)  : (s.takeNmi).x = s.x := by
  unfold State.takeNmi
  repeat' split
  all_goals simp
@[simp] theorem State.takeNmi_minstret (s : State) : s.takeNmi.cnt.minstret = s.cnt.minstret := by
  unfold State.takeNmi
  repeat' split
  all_goals simp
@[simp] theorem State.takeNmi_sup (s : State)  : (s.takeNmi).sup = s.sup := by
  unfold State.takeNmi
  repeat' split
  all_goals simp
@[simp] theorem State.takeNmi_units (s : State)  : (s.takeNmi).units = s.units := by
  unfold State.takeNmi
  repeat' split
  all_goals simp
@[simp] theorem State.takeNmi_pmp (s : State)  : (s.takeNmi).pmp = s.pmp := by
  unfold State.takeNmi
  repeat' split
  all_goals simp
@[simp] theorem State.takeNmi_reservation (s : State)  : (s.takeNmi).reservation = s.reservation := by
  unfold State.takeNmi
  repeat' split
  all_goals simp
@[simp] theorem State.takeNmi_plat (s : State)  : (s.takeNmi).plat = s.plat := by
  unfold State.takeNmi
  repeat' split
  all_goals simp
@[simp] theorem State.takeNmi_inputs (s : State)  : (s.takeNmi).inputs = s.inputs := by
  unfold State.takeNmi
  repeat' split
  all_goals simp
@[simp] theorem State.takeNmi_mem (s : State)  : (s.takeNmi).mem = s.mem := by
  unfold State.takeNmi
  repeat' split
  all_goals simp
@[simp] theorem State.takeNmi_ctr (s : State)  : (s.takeNmi).ctr = s.ctr := by
  unfold State.takeNmi
  repeat' split
  all_goals simp

/-! ### Returns -/

@[simp] theorem State.finishReturn_cfg (s : State) (t : Word) : (s.finishReturn t).cfg = s.cfg := rfl
@[simp] theorem State.finishReturn_priv (s : State) (t : Word) : (s.finishReturn t).priv = s.priv := rfl
@[simp] theorem State.finishReturn_x (s : State) (t : Word) : (s.finishReturn t).x = s.x := rfl
@[simp] theorem State.finishReturn_csr (s : State) (t : Word) : (s.finishReturn t).csr = s.csr := rfl
@[simp] theorem State.finishReturn_cnt (s : State) (t : Word) : (s.finishReturn t).cnt = s.cnt := rfl
@[simp] theorem State.finishReturn_sup (s : State) (t : Word) : (s.finishReturn t).sup = s.sup := rfl
@[simp] theorem State.finishReturn_rnmi (s : State) (t : Word) : (s.finishReturn t).rnmi = s.rnmi := rfl
@[simp] theorem State.finishReturn_units (s : State) (t : Word) : (s.finishReturn t).units = s.units := rfl
@[simp] theorem State.finishReturn_pmp (s : State) (t : Word) : (s.finishReturn t).pmp = s.pmp := rfl
@[simp] theorem State.finishReturn_wait (s : State) (t : Word) : (s.finishReturn t).wait = s.wait := rfl
@[simp] theorem State.finishReturn_criticalError (s : State) (t : Word) : (s.finishReturn t).criticalError = s.criticalError := rfl
@[simp] theorem State.finishReturn_plat (s : State) (t : Word) : (s.finishReturn t).plat = s.plat := rfl
@[simp] theorem State.finishReturn_inputs (s : State) (t : Word) : (s.finishReturn t).inputs = s.inputs := rfl
@[simp] theorem State.finishReturn_mem (s : State) (t : Word) : (s.finishReturn t).mem = s.mem := rfl
@[simp] theorem State.finishReturn_ctr (s : State) (t : Word) : (s.finishReturn t).ctr = s.ctr := rfl

@[simp] theorem State.returnM_cfg (s : State)  : (s.returnM).cfg = s.cfg := by simp [State.returnM, State.setMstatus]
@[simp] theorem State.returnM_x (s : State)  : (s.returnM).x = s.x := by simp [State.returnM, State.setMstatus]
@[simp] theorem State.returnM_sup (s : State)  : (s.returnM).sup = s.sup := by simp [State.returnM, State.setMstatus]
@[simp] theorem State.returnM_rnmi (s : State)  : (s.returnM).rnmi = s.rnmi := by simp [State.returnM, State.setMstatus]
@[simp] theorem State.returnM_units (s : State)  : (s.returnM).units = s.units := by simp [State.returnM, State.setMstatus]
@[simp] theorem State.returnM_pmp (s : State)  : (s.returnM).pmp = s.pmp := by simp [State.returnM, State.setMstatus]
@[simp] theorem State.returnM_wait (s : State)  : (s.returnM).wait = s.wait := by simp [State.returnM, State.setMstatus]
@[simp] theorem State.returnM_criticalError (s : State)  : (s.returnM).criticalError = s.criticalError := by simp [State.returnM, State.setMstatus]
@[simp] theorem State.returnM_plat (s : State)  : (s.returnM).plat = s.plat := by simp [State.returnM, State.setMstatus]
@[simp] theorem State.returnM_inputs (s : State)  : (s.returnM).inputs = s.inputs := by simp [State.returnM, State.setMstatus]
@[simp] theorem State.returnM_mem (s : State)  : (s.returnM).mem = s.mem := by simp [State.returnM, State.setMstatus]
@[simp] theorem State.returnM_ctr (s : State)  : (s.returnM).ctr = s.ctr := by simp [State.returnM, State.setMstatus]

@[simp] theorem State.returnS_cfg (s : State)  : (s.returnS).cfg = s.cfg := by simp [State.returnS, State.setMstatus]
@[simp] theorem State.returnS_x (s : State)  : (s.returnS).x = s.x := by simp [State.returnS, State.setMstatus]
@[simp] theorem State.returnS_sup (s : State)  : (s.returnS).sup = s.sup := by simp [State.returnS, State.setMstatus]
@[simp] theorem State.returnS_rnmi (s : State)  : (s.returnS).rnmi = s.rnmi := by simp [State.returnS, State.setMstatus]
@[simp] theorem State.returnS_units (s : State)  : (s.returnS).units = s.units := by simp [State.returnS, State.setMstatus]
@[simp] theorem State.returnS_pmp (s : State)  : (s.returnS).pmp = s.pmp := by simp [State.returnS, State.setMstatus]
@[simp] theorem State.returnS_wait (s : State)  : (s.returnS).wait = s.wait := by simp [State.returnS, State.setMstatus]
@[simp] theorem State.returnS_criticalError (s : State)  : (s.returnS).criticalError = s.criticalError := by simp [State.returnS, State.setMstatus]
@[simp] theorem State.returnS_plat (s : State)  : (s.returnS).plat = s.plat := by simp [State.returnS, State.setMstatus]
@[simp] theorem State.returnS_inputs (s : State)  : (s.returnS).inputs = s.inputs := by simp [State.returnS, State.setMstatus]
@[simp] theorem State.returnS_mem (s : State)  : (s.returnS).mem = s.mem := by simp [State.returnS, State.setMstatus]
@[simp] theorem State.returnS_ctr (s : State)  : (s.returnS).ctr = s.ctr := by simp [State.returnS, State.setMstatus]

@[simp] theorem State.returnRnmi_cfg (s : State)  : (s.returnRnmi).cfg = s.cfg := by simp [State.returnRnmi, State.setMstatus]
@[simp] theorem State.returnRnmi_x (s : State)  : (s.returnRnmi).x = s.x := by simp [State.returnRnmi, State.setMstatus]
@[simp] theorem State.returnRnmi_sup (s : State)  : (s.returnRnmi).sup = s.sup := by simp [State.returnRnmi, State.setMstatus]
@[simp] theorem State.returnRnmi_units (s : State)  : (s.returnRnmi).units = s.units := by simp [State.returnRnmi, State.setMstatus]
@[simp] theorem State.returnRnmi_pmp (s : State)  : (s.returnRnmi).pmp = s.pmp := by simp [State.returnRnmi, State.setMstatus]
@[simp] theorem State.returnRnmi_wait (s : State)  : (s.returnRnmi).wait = s.wait := by simp [State.returnRnmi, State.setMstatus]
@[simp] theorem State.returnRnmi_criticalError (s : State)  : (s.returnRnmi).criticalError = s.criticalError := by simp [State.returnRnmi, State.setMstatus]
@[simp] theorem State.returnRnmi_plat (s : State)  : (s.returnRnmi).plat = s.plat := by simp [State.returnRnmi, State.setMstatus]
@[simp] theorem State.returnRnmi_inputs (s : State)  : (s.returnRnmi).inputs = s.inputs := by simp [State.returnRnmi, State.setMstatus]
@[simp] theorem State.returnRnmi_mem (s : State)  : (s.returnRnmi).mem = s.mem := by simp [State.returnRnmi, State.setMstatus]
@[simp] theorem State.returnRnmi_ctr (s : State)  : (s.returnRnmi).ctr = s.ctr := by simp [State.returnRnmi, State.setMstatus]

/-! ### Legalisers -/

/-- What a write of a WARL field leaves: the old value, REF's cut of the written one, or a value that the rules and the
implementation call legal (00_scope.md R10). -/
theorem warlChoice_cases (c : Cfg) (f : WarlField) (must : Word → Bool) (cut : Word → Word) (old w r : Word)
    (h : warlChoice c f must cut old w = r) :
    r = old ∨ c.kind f = .ref ∧ r = cut w ∨
      c.kind f = .impl ∧ cut r = r ∧ (must r = true ∨ Config.warlLegal f r = true) := by
  simp only [warlChoice] at h
  split at h
  · exact .inr (.inl ⟨by assumption, h.symm⟩)
  · exact .inl h.symm
  · split at h
    · subst h; simp_all
    · split at h
      · subst h; simp_all
      · exact .inl h.symm

/-- A legal value is stored as it is, but in a read-only field (00_scope.md R10). -/
theorem warlChoice_legal (c : Cfg) (f : WarlField) (must : Word → Bool) (cut : Word → Word) (old w : Word)
    (hk : c.kind f ≠ .readOnly) (hc : cut w = w) (hl : must w = true ∨ Config.warlLegal f w = true) :
    warlChoice c f must cut old w = w := by
  simp only [warlChoice]
  split <;> simp_all

/-! ### CSR writes -/

@[simp] theorem State.againX_cfg (s : State) (v : BitVec 26) : (s.againX v).cfg = s.cfg := rfl
@[simp] theorem State.againX_priv (s : State) (v : BitVec 26) : (s.againX v).priv = s.priv := rfl
@[simp] theorem State.againX_pc (s : State) (v : BitVec 26) : (s.againX v).pc = s.pc := rfl
@[simp] theorem State.againX_x (s : State) (v : BitVec 26) : (s.againX v).x = s.x := rfl
@[simp] theorem State.againX_csr (s : State) (v : BitVec 26) : (s.againX v).csr = s.csr := rfl
@[simp] theorem State.againX_cnt (s : State) (v : BitVec 26) : (s.againX v).cnt = s.cnt := rfl
@[simp] theorem State.againX_sup (s : State) (v : BitVec 26) : (s.againX v).sup = s.sup := rfl
@[simp] theorem State.againX_rnmi (s : State) (v : BitVec 26) : (s.againX v).rnmi = s.rnmi := rfl
@[simp] theorem State.againX_pmp (s : State) (v : BitVec 26) : (s.againX v).pmp = s.pmp := rfl
@[simp] theorem State.againX_wait (s : State) (v : BitVec 26) : (s.againX v).wait = s.wait := rfl
@[simp] theorem State.againX_criticalError (s : State) (v : BitVec 26) : (s.againX v).criticalError = s.criticalError := rfl
@[simp] theorem State.againX_reservation (s : State) (v : BitVec 26) : (s.againX v).reservation = s.reservation := rfl
@[simp] theorem State.againX_elp (s : State) (v : BitVec 26) : (s.againX v).elp = s.elp := rfl
@[simp] theorem State.againX_plat (s : State) (v : BitVec 26) : (s.againX v).plat = s.plat := rfl
@[simp] theorem State.againX_inputs (s : State) (v : BitVec 26) : (s.againX v).inputs = s.inputs := rfl
@[simp] theorem State.againX_mem (s : State) (v : BitVec 26) : (s.againX v).mem = s.mem := rfl
@[simp] theorem State.againX_ctr (s : State) (v : BitVec 26) : (s.againX v).ctr = s.ctr := rfl

@[simp] theorem State.againI_cfg (s : State) (v : BitVec 26) : (s.againI v).cfg = s.cfg := by unfold State.againI; split <;> simp [State.reenableI]
@[simp] theorem State.againI_priv (s : State) (v : BitVec 26) : (s.againI v).priv = s.priv := by unfold State.againI; split <;> simp [State.reenableI]
@[simp] theorem State.againI_pc (s : State) (v : BitVec 26) : (s.againI v).pc = s.pc := by unfold State.againI; split <;> simp [State.reenableI]
@[simp] theorem State.againI_csr (s : State) (v : BitVec 26) : (s.againI v).csr = s.csr := by unfold State.againI; split <;> simp [State.reenableI]
@[simp] theorem State.againI_cnt (s : State) (v : BitVec 26) : (s.againI v).cnt = s.cnt := by unfold State.againI; split <;> simp [State.reenableI]
@[simp] theorem State.againI_sup (s : State) (v : BitVec 26) : (s.againI v).sup = s.sup := by unfold State.againI; split <;> simp [State.reenableI]
@[simp] theorem State.againI_rnmi (s : State) (v : BitVec 26) : (s.againI v).rnmi = s.rnmi := by unfold State.againI; split <;> simp [State.reenableI]
@[simp] theorem State.againI_units (s : State) (v : BitVec 26) : (s.againI v).units = s.units := by unfold State.againI; split <;> simp [State.reenableI]
@[simp] theorem State.againI_pmp (s : State) (v : BitVec 26) : (s.againI v).pmp = s.pmp := by unfold State.againI; split <;> simp [State.reenableI]
@[simp] theorem State.againI_wait (s : State) (v : BitVec 26) : (s.againI v).wait = s.wait := by unfold State.againI; split <;> simp [State.reenableI]
@[simp] theorem State.againI_criticalError (s : State) (v : BitVec 26) : (s.againI v).criticalError = s.criticalError := by unfold State.againI; split <;> simp [State.reenableI]
@[simp] theorem State.againI_reservation (s : State) (v : BitVec 26) : (s.againI v).reservation = s.reservation := by unfold State.againI; split <;> simp [State.reenableI]
@[simp] theorem State.againI_elp (s : State) (v : BitVec 26) : (s.againI v).elp = s.elp := by unfold State.againI; split <;> simp [State.reenableI]
@[simp] theorem State.againI_plat (s : State) (v : BitVec 26) : (s.againI v).plat = s.plat := by unfold State.againI; split <;> simp [State.reenableI]
@[simp] theorem State.againI_inputs (s : State) (v : BitVec 26) : (s.againI v).inputs = s.inputs := by unfold State.againI; split <;> simp [State.reenableI]
@[simp] theorem State.againI_mem (s : State) (v : BitVec 26) : (s.againI v).mem = s.mem := by unfold State.againI; split <;> simp [State.reenableI]
@[simp] theorem State.againI_ctr (s : State) (v : BitVec 26) : (s.againI v).ctr = s.ctr := by unfold State.againI; split <;> simp [State.reenableI]

/-- Only the registers that I alone has are free where I is enabled again. -/
theorem State.againI_x_get (s : State) (v : BitVec 26) (i : Nat) (hi : i < 32)
    (h : s.enables v 8 = false ∨ i < 16) : (s.againI v).x[i] = s.x[i] := by
  unfold State.againI
  split
  · rename_i e
    have h16 : i < 16 := by simpa [e] using h
    simp [State.reenableI, Nat.not_le.2 h16]
  · rfl

@[simp] theorem State.againA_cfg (s : State) (v : BitVec 26) : (s.againA v).cfg = s.cfg := by unfold State.againA; split <;> rfl
@[simp] theorem State.againA_priv (s : State) (v : BitVec 26) : (s.againA v).priv = s.priv := by unfold State.againA; split <;> rfl
@[simp] theorem State.againA_pc (s : State) (v : BitVec 26) : (s.againA v).pc = s.pc := by unfold State.againA; split <;> rfl
@[simp] theorem State.againA_x (s : State) (v : BitVec 26) : (s.againA v).x = s.x := by unfold State.againA; split <;> rfl
@[simp] theorem State.againA_csr (s : State) (v : BitVec 26) : (s.againA v).csr = s.csr := by unfold State.againA; split <;> rfl
@[simp] theorem State.againA_cnt (s : State) (v : BitVec 26) : (s.againA v).cnt = s.cnt := by unfold State.againA; split <;> rfl
@[simp] theorem State.againA_sup (s : State) (v : BitVec 26) : (s.againA v).sup = s.sup := by unfold State.againA; split <;> rfl
@[simp] theorem State.againA_rnmi (s : State) (v : BitVec 26) : (s.againA v).rnmi = s.rnmi := by unfold State.againA; split <;> rfl
@[simp] theorem State.againA_units (s : State) (v : BitVec 26) : (s.againA v).units = s.units := by unfold State.againA; split <;> rfl
@[simp] theorem State.againA_pmp (s : State) (v : BitVec 26) : (s.againA v).pmp = s.pmp := by unfold State.againA; split <;> rfl
@[simp] theorem State.againA_wait (s : State) (v : BitVec 26) : (s.againA v).wait = s.wait := by unfold State.againA; split <;> rfl
@[simp] theorem State.againA_criticalError (s : State) (v : BitVec 26) : (s.againA v).criticalError = s.criticalError := by unfold State.againA; split <;> rfl
@[simp] theorem State.againA_elp (s : State) (v : BitVec 26) : (s.againA v).elp = s.elp := by unfold State.againA; split <;> rfl
@[simp] theorem State.againA_plat (s : State) (v : BitVec 26) : (s.againA v).plat = s.plat := by unfold State.againA; split <;> rfl
@[simp] theorem State.againA_inputs (s : State) (v : BitVec 26) : (s.againA v).inputs = s.inputs := by unfold State.againA; split <;> rfl
@[simp] theorem State.againA_mem (s : State) (v : BitVec 26) : (s.againA v).mem = s.mem := by unfold State.againA; split <;> rfl
@[simp] theorem State.againA_ctr (s : State) (v : BitVec 26) : (s.againA v).ctr = s.ctr := by unfold State.againA; split <;> rfl

@[simp] theorem State.againF_cfg (s : State) (v : BitVec 26) : (s.againF v).cfg = s.cfg := by unfold State.againF; split <;> rfl
@[simp] theorem State.againF_priv (s : State) (v : BitVec 26) : (s.againF v).priv = s.priv := by unfold State.againF; split <;> rfl
@[simp] theorem State.againF_pc (s : State) (v : BitVec 26) : (s.againF v).pc = s.pc := by unfold State.againF; split <;> rfl
@[simp] theorem State.againF_x (s : State) (v : BitVec 26) : (s.againF v).x = s.x := by unfold State.againF; split <;> rfl
@[simp] theorem State.againF_cnt (s : State) (v : BitVec 26) : (s.againF v).cnt = s.cnt := by unfold State.againF; split <;> rfl
@[simp] theorem State.againF_sup (s : State) (v : BitVec 26) : (s.againF v).sup = s.sup := by unfold State.againF; split <;> rfl
@[simp] theorem State.againF_rnmi (s : State) (v : BitVec 26) : (s.againF v).rnmi = s.rnmi := by unfold State.againF; split <;> rfl
@[simp] theorem State.againF_pmp (s : State) (v : BitVec 26) : (s.againF v).pmp = s.pmp := by unfold State.againF; split <;> rfl
@[simp] theorem State.againF_wait (s : State) (v : BitVec 26) : (s.againF v).wait = s.wait := by unfold State.againF; split <;> rfl
@[simp] theorem State.againF_criticalError (s : State) (v : BitVec 26) : (s.againF v).criticalError = s.criticalError := by unfold State.againF; split <;> rfl
@[simp] theorem State.againF_reservation (s : State) (v : BitVec 26) : (s.againF v).reservation = s.reservation := by unfold State.againF; split <;> rfl
@[simp] theorem State.againF_elp (s : State) (v : BitVec 26) : (s.againF v).elp = s.elp := by unfold State.againF; split <;> rfl
@[simp] theorem State.againF_plat (s : State) (v : BitVec 26) : (s.againF v).plat = s.plat := by unfold State.againF; split <;> rfl
@[simp] theorem State.againF_inputs (s : State) (v : BitVec 26) : (s.againF v).inputs = s.inputs := by unfold State.againF; split <;> rfl
@[simp] theorem State.againF_mem (s : State) (v : BitVec 26) : (s.againF v).mem = s.mem := by unfold State.againF; split <;> rfl
@[simp] theorem State.againF_ctr (s : State) (v : BitVec 26) : (s.againF v).ctr = s.ctr := by unfold State.againF; split <;> rfl

@[simp] theorem State.againS_cfg (s : State) (v : BitVec 26) : (s.againS v).cfg = s.cfg := by unfold State.againS; split <;> rfl
@[simp] theorem State.againS_priv (s : State) (v : BitVec 26) : (s.againS v).priv = s.priv := by unfold State.againS; split <;> rfl
@[simp] theorem State.againS_pc (s : State) (v : BitVec 26) : (s.againS v).pc = s.pc := by unfold State.againS; split <;> rfl
@[simp] theorem State.againS_x (s : State) (v : BitVec 26) : (s.againS v).x = s.x := by unfold State.againS; split <;> rfl
@[simp] theorem State.againS_cnt (s : State) (v : BitVec 26) : (s.againS v).cnt = s.cnt := by unfold State.againS; split <;> rfl
@[simp] theorem State.againS_rnmi (s : State) (v : BitVec 26) : (s.againS v).rnmi = s.rnmi := by unfold State.againS; split <;> rfl
@[simp] theorem State.againS_units (s : State) (v : BitVec 26) : (s.againS v).units = s.units := by unfold State.againS; split <;> rfl
@[simp] theorem State.againS_pmp (s : State) (v : BitVec 26) : (s.againS v).pmp = s.pmp := by unfold State.againS; split <;> rfl
@[simp] theorem State.againS_wait (s : State) (v : BitVec 26) : (s.againS v).wait = s.wait := by unfold State.againS; split <;> rfl
@[simp] theorem State.againS_criticalError (s : State) (v : BitVec 26) : (s.againS v).criticalError = s.criticalError := by unfold State.againS; split <;> rfl
@[simp] theorem State.againS_reservation (s : State) (v : BitVec 26) : (s.againS v).reservation = s.reservation := by unfold State.againS; split <;> rfl
@[simp] theorem State.againS_elp (s : State) (v : BitVec 26) : (s.againS v).elp = s.elp := by unfold State.againS; split <;> rfl
@[simp] theorem State.againS_plat (s : State) (v : BitVec 26) : (s.againS v).plat = s.plat := by unfold State.againS; split <;> rfl
@[simp] theorem State.againS_inputs (s : State) (v : BitVec 26) : (s.againS v).inputs = s.inputs := by unfold State.againS; split <;> rfl
@[simp] theorem State.againS_mem (s : State) (v : BitVec 26) : (s.againS v).mem = s.mem := by unfold State.againS; split <;> rfl
@[simp] theorem State.againS_ctr (s : State) (v : BitVec 26) : (s.againS v).ctr = s.ctr := by unfold State.againS; split <;> rfl

@[simp] theorem State.againU_cfg (s : State) (v : BitVec 26) : (s.againU v).cfg = s.cfg := by unfold State.againU; split <;> rfl
@[simp] theorem State.againU_priv (s : State) (v : BitVec 26) : (s.againU v).priv = s.priv := by unfold State.againU; split <;> rfl
@[simp] theorem State.againU_pc (s : State) (v : BitVec 26) : (s.againU v).pc = s.pc := by unfold State.againU; split <;> rfl
@[simp] theorem State.againU_x (s : State) (v : BitVec 26) : (s.againU v).x = s.x := by unfold State.againU; split <;> rfl
@[simp] theorem State.againU_cnt (s : State) (v : BitVec 26) : (s.againU v).cnt = s.cnt := by unfold State.againU; split <;> rfl
@[simp] theorem State.againU_sup (s : State) (v : BitVec 26) : (s.againU v).sup = s.sup := by unfold State.againU; split <;> rfl
@[simp] theorem State.againU_rnmi (s : State) (v : BitVec 26) : (s.againU v).rnmi = s.rnmi := by unfold State.againU; split <;> rfl
@[simp] theorem State.againU_units (s : State) (v : BitVec 26) : (s.againU v).units = s.units := by unfold State.againU; split <;> rfl
@[simp] theorem State.againU_pmp (s : State) (v : BitVec 26) : (s.againU v).pmp = s.pmp := by unfold State.againU; split <;> rfl
@[simp] theorem State.againU_wait (s : State) (v : BitVec 26) : (s.againU v).wait = s.wait := by unfold State.againU; split <;> rfl
@[simp] theorem State.againU_criticalError (s : State) (v : BitVec 26) : (s.againU v).criticalError = s.criticalError := by unfold State.againU; split <;> rfl
@[simp] theorem State.againU_reservation (s : State) (v : BitVec 26) : (s.againU v).reservation = s.reservation := by unfold State.againU; split <;> rfl
@[simp] theorem State.againU_elp (s : State) (v : BitVec 26) : (s.againU v).elp = s.elp := by unfold State.againU; split <;> rfl
@[simp] theorem State.againU_plat (s : State) (v : BitVec 26) : (s.againU v).plat = s.plat := by unfold State.againU; split <;> rfl
@[simp] theorem State.againU_inputs (s : State) (v : BitVec 26) : (s.againU v).inputs = s.inputs := by unfold State.againU; split <;> rfl
@[simp] theorem State.againU_mem (s : State) (v : BitVec 26) : (s.againU v).mem = s.mem := by unfold State.againU; split <;> rfl
@[simp] theorem State.againU_ctr (s : State) (v : BitVec 26) : (s.againU v).ctr = s.ctr := by unfold State.againU; split <;> rfl

@[simp] theorem State.againV_cfg (s : State) (v : BitVec 26) : (s.againV v).cfg = s.cfg := by unfold State.againV; split <;> rfl
@[simp] theorem State.againV_priv (s : State) (v : BitVec 26) : (s.againV v).priv = s.priv := by unfold State.againV; split <;> rfl
@[simp] theorem State.againV_pc (s : State) (v : BitVec 26) : (s.againV v).pc = s.pc := by unfold State.againV; split <;> rfl
@[simp] theorem State.againV_x (s : State) (v : BitVec 26) : (s.againV v).x = s.x := by unfold State.againV; split <;> rfl
@[simp] theorem State.againV_cnt (s : State) (v : BitVec 26) : (s.againV v).cnt = s.cnt := by unfold State.againV; split <;> rfl
@[simp] theorem State.againV_sup (s : State) (v : BitVec 26) : (s.againV v).sup = s.sup := by unfold State.againV; split <;> rfl
@[simp] theorem State.againV_rnmi (s : State) (v : BitVec 26) : (s.againV v).rnmi = s.rnmi := by unfold State.againV; split <;> rfl
@[simp] theorem State.againV_pmp (s : State) (v : BitVec 26) : (s.againV v).pmp = s.pmp := by unfold State.againV; split <;> rfl
@[simp] theorem State.againV_wait (s : State) (v : BitVec 26) : (s.againV v).wait = s.wait := by unfold State.againV; split <;> rfl
@[simp] theorem State.againV_criticalError (s : State) (v : BitVec 26) : (s.againV v).criticalError = s.criticalError := by unfold State.againV; split <;> rfl
@[simp] theorem State.againV_reservation (s : State) (v : BitVec 26) : (s.againV v).reservation = s.reservation := by unfold State.againV; split <;> rfl
@[simp] theorem State.againV_elp (s : State) (v : BitVec 26) : (s.againV v).elp = s.elp := by unfold State.againV; split <;> rfl
@[simp] theorem State.againV_plat (s : State) (v : BitVec 26) : (s.againV v).plat = s.plat := by unfold State.againV; split <;> rfl
@[simp] theorem State.againV_inputs (s : State) (v : BitVec 26) : (s.againV v).inputs = s.inputs := by unfold State.againV; split <;> rfl
@[simp] theorem State.againV_mem (s : State) (v : BitVec 26) : (s.againV v).mem = s.mem := by unfold State.againV; split <;> rfl
@[simp] theorem State.againV_ctr (s : State) (v : BitVec 26) : (s.againV v).ctr = s.ctr := by unfold State.againV; split <;> rfl

@[simp] theorem State.setMisa_cfg (s : State) (v : BitVec 26) : (s.setMisa v).cfg = s.cfg := by simp [State.setMisa]
@[simp] theorem State.setMisa_priv (s : State) (v : BitVec 26) : (s.setMisa v).priv = s.priv := by simp [State.setMisa]
@[simp] theorem State.setMisa_pc (s : State) (v : BitVec 26) : (s.setMisa v).pc = s.pc := by simp [State.setMisa]
@[simp] theorem State.setMisa_wait (s : State) (v : BitVec 26) : (s.setMisa v).wait = s.wait := by simp [State.setMisa]
@[simp] theorem State.setMisa_criticalError (s : State) (v : BitVec 26) : (s.setMisa v).criticalError = s.criticalError := by simp [State.setMisa]
@[simp] theorem State.setMisa_elp (s : State) (v : BitVec 26) : (s.setMisa v).elp = s.elp := by simp [State.setMisa]
@[simp] theorem State.setMisa_plat (s : State) (v : BitVec 26) : (s.setMisa v).plat = s.plat := by simp [State.setMisa]
@[simp] theorem State.setMisa_inputs (s : State) (v : BitVec 26) : (s.setMisa v).inputs = s.inputs := by simp [State.setMisa]
@[simp] theorem State.setMisa_mem (s : State) (v : BitVec 26) : (s.setMisa v).mem = s.mem := by simp [State.setMisa]
@[simp] theorem State.setMisa_ctr (s : State) (v : BitVec 26) : (s.setMisa v).ctr = s.ctr := by simp [State.setMisa]
@[simp] theorem State.setMisa_rnmi (s : State) (v : BitVec 26) : (s.setMisa v).rnmi = s.rnmi := by simp [State.setMisa]
@[simp] theorem State.setMisa_pmp (s : State) (v : BitVec 26) : (s.setMisa v).pmp = s.pmp := by simp [State.setMisa]
@[simp] theorem State.setMisa_cnt (s : State) (v : BitVec 26) : (s.setMisa v).cnt = s.cnt := by simp [State.setMisa]

@[simp] theorem State.setMisa_x (s : State) (v : BitVec 26) : (s.setMisa v).x = ((s.againX v).againI v).x := by
  simp [State.setMisa]

@[simp] theorem State.setMisa_misa (s : State) (v : BitVec 26) : (s.setMisa v).csr.misa = v := rfl

@[simp] theorem State.writeMisa_cfg (s : State) (w : Word) : (s.writeMisa w).cfg = s.cfg := by unfold State.writeMisa; split <;> simp
@[simp] theorem State.writeMisa_priv (s : State) (w : Word) : (s.writeMisa w).priv = s.priv := by unfold State.writeMisa; split <;> simp
@[simp] theorem State.writeMisa_pc (s : State) (w : Word) : (s.writeMisa w).pc = s.pc := by unfold State.writeMisa; split <;> simp
@[simp] theorem State.writeMisa_wait (s : State) (w : Word) : (s.writeMisa w).wait = s.wait := by unfold State.writeMisa; split <;> simp
@[simp] theorem State.writeMisa_criticalError (s : State) (w : Word) : (s.writeMisa w).criticalError = s.criticalError := by unfold State.writeMisa; split <;> simp
@[simp] theorem State.writeMisa_elp (s : State) (w : Word) : (s.writeMisa w).elp = s.elp := by unfold State.writeMisa; split <;> simp
@[simp] theorem State.writeMisa_plat (s : State) (w : Word) : (s.writeMisa w).plat = s.plat := by unfold State.writeMisa; split <;> simp
@[simp] theorem State.writeMisa_inputs (s : State) (w : Word) : (s.writeMisa w).inputs = s.inputs := by unfold State.writeMisa; split <;> simp
@[simp] theorem State.writeMisa_mem (s : State) (w : Word) : (s.writeMisa w).mem = s.mem := by unfold State.writeMisa; split <;> simp
@[simp] theorem State.writeMisa_ctr (s : State) (w : Word) : (s.writeMisa w).ctr = s.ctr := by unfold State.writeMisa; split <;> simp
@[simp] theorem State.writeMisa_rnmi (s : State) (w : Word) : (s.writeMisa w).rnmi = s.rnmi := by unfold State.writeMisa; split <;> simp
@[simp] theorem State.writeMisa_pmp (s : State) (w : Word) : (s.writeMisa w).pmp = s.pmp := by unfold State.writeMisa; split <;> simp
@[simp] theorem State.writeMisa_cnt (s : State) (w : Word) : (s.writeMisa w).cnt = s.cnt := by unfold State.writeMisa; split <;> simp

/-- A write of `misa` leaves the registers that the hart has now: `x16` to `x31` change only where I is enabled again. -/
theorem State.writeMisa_x_get (s : State) (w : Word) (i : Nat) (hi : i < 32) (h : s.rvE = false ∨ i < 16) :
    (s.writeMisa w).x[i] = s.x[i] := by
  unfold State.writeMisa
  split
  · rfl
  · rename_i e
    simp only [State.setMisa_x]
    refine (State.againI_x_get _ _ i hi (h.imp_left fun r => ?_)).trans (by rw [State.againX_x])
    have : s.cfg.misaImpl = true := by simp_all
    simp_all [State.rvE, State.enables]

@[simp] theorem State.settleElp_cfg (s : State) : s.settleElp.cfg = s.cfg := by unfold State.settleElp; split <;> rfl
@[simp] theorem State.settleElp_priv (s : State) : s.settleElp.priv = s.priv := by unfold State.settleElp; split <;> rfl
@[simp] theorem State.settleElp_pc (s : State) : s.settleElp.pc = s.pc := by unfold State.settleElp; split <;> rfl
@[simp] theorem State.settleElp_x (s : State) : s.settleElp.x = s.x := by unfold State.settleElp; split <;> rfl
@[simp] theorem State.settleElp_csr (s : State) : s.settleElp.csr = s.csr := by unfold State.settleElp; split <;> rfl
@[simp] theorem State.settleElp_cnt (s : State) : s.settleElp.cnt = s.cnt := by unfold State.settleElp; split <;> rfl
@[simp] theorem State.settleElp_sup (s : State) : s.settleElp.sup = s.sup := by unfold State.settleElp; split <;> rfl
@[simp] theorem State.settleElp_rnmi (s : State) : s.settleElp.rnmi = s.rnmi := by unfold State.settleElp; split <;> rfl
@[simp] theorem State.settleElp_units (s : State) : s.settleElp.units = s.units := by unfold State.settleElp; split <;> rfl
@[simp] theorem State.settleElp_pmp (s : State) : s.settleElp.pmp = s.pmp := by unfold State.settleElp; split <;> rfl
@[simp] theorem State.settleElp_wait (s : State) : s.settleElp.wait = s.wait := by unfold State.settleElp; split <;> rfl
@[simp] theorem State.settleElp_criticalError (s : State) : s.settleElp.criticalError = s.criticalError := by unfold State.settleElp; split <;> rfl
@[simp] theorem State.settleElp_reservation (s : State) : s.settleElp.reservation = s.reservation := by unfold State.settleElp; split <;> rfl
@[simp] theorem State.settleElp_plat (s : State) : s.settleElp.plat = s.plat := by unfold State.settleElp; split <;> rfl
@[simp] theorem State.settleElp_inputs (s : State) : s.settleElp.inputs = s.inputs := by unfold State.settleElp; split <;> rfl
@[simp] theorem State.settleElp_mem (s : State) : s.settleElp.mem = s.mem := by unfold State.settleElp; split <;> rfl
@[simp] theorem State.settleElp_ctr (s : State) : s.settleElp.ctr = s.ctr := by unfold State.settleElp; split <;> rfl

/-- `ELP` is kept or cleared. -/
theorem State.settleElp_elp (s : State) : s.settleElp.elp = s.elp ∨ s.settleElp.elp = false := by
  unfold State.settleElp; split <;> simp

@[simp] theorem State.customCsrWrite_cfg (s : State) (a : BitVec 12) (w : Word) : (s.customCsrWrite a w).cfg = s.cfg := by unfold State.customCsrWrite; split <;> rfl
@[simp] theorem State.customCsrWrite_priv (s : State) (a : BitVec 12) (w : Word) : (s.customCsrWrite a w).priv = s.priv := by unfold State.customCsrWrite; split <;> rfl
@[simp] theorem State.customCsrWrite_pc (s : State) (a : BitVec 12) (w : Word) : (s.customCsrWrite a w).pc = s.pc := by unfold State.customCsrWrite; split <;> rfl
@[simp] theorem State.customCsrWrite_x (s : State) (a : BitVec 12) (w : Word) : (s.customCsrWrite a w).x = s.x := by unfold State.customCsrWrite; split <;> rfl
@[simp] theorem State.customCsrWrite_csr (s : State) (a : BitVec 12) (w : Word) : (s.customCsrWrite a w).csr = s.csr := by unfold State.customCsrWrite; split <;> rfl
@[simp] theorem State.customCsrWrite_cnt (s : State) (a : BitVec 12) (w : Word) : (s.customCsrWrite a w).cnt = s.cnt := by unfold State.customCsrWrite; split <;> rfl
@[simp] theorem State.customCsrWrite_sup (s : State) (a : BitVec 12) (w : Word) : (s.customCsrWrite a w).sup = s.sup := by unfold State.customCsrWrite; split <;> rfl
@[simp] theorem State.customCsrWrite_rnmi (s : State) (a : BitVec 12) (w : Word) : (s.customCsrWrite a w).rnmi = s.rnmi := by unfold State.customCsrWrite; split <;> rfl
@[simp] theorem State.customCsrWrite_pmp (s : State) (a : BitVec 12) (w : Word) : (s.customCsrWrite a w).pmp = s.pmp := by unfold State.customCsrWrite; split <;> rfl
@[simp] theorem State.customCsrWrite_wait (s : State) (a : BitVec 12) (w : Word) : (s.customCsrWrite a w).wait = s.wait := by unfold State.customCsrWrite; split <;> rfl
@[simp] theorem State.customCsrWrite_criticalError (s : State) (a : BitVec 12) (w : Word) : (s.customCsrWrite a w).criticalError = s.criticalError := by unfold State.customCsrWrite; split <;> rfl
@[simp] theorem State.customCsrWrite_reservation (s : State) (a : BitVec 12) (w : Word) : (s.customCsrWrite a w).reservation = s.reservation := by unfold State.customCsrWrite; split <;> rfl
@[simp] theorem State.customCsrWrite_elp (s : State) (a : BitVec 12) (w : Word) : (s.customCsrWrite a w).elp = s.elp := by unfold State.customCsrWrite; split <;> rfl
@[simp] theorem State.customCsrWrite_plat (s : State) (a : BitVec 12) (w : Word) : (s.customCsrWrite a w).plat = s.plat := by unfold State.customCsrWrite; split <;> rfl
@[simp] theorem State.customCsrWrite_inputs (s : State) (a : BitVec 12) (w : Word) : (s.customCsrWrite a w).inputs = s.inputs := by unfold State.customCsrWrite; split <;> rfl
@[simp] theorem State.customCsrWrite_mem (s : State) (a : BitVec 12) (w : Word) : (s.customCsrWrite a w).mem = s.mem := by unfold State.customCsrWrite; split <;> rfl
@[simp] theorem State.customCsrWrite_ctr (s : State) (a : BitVec 12) (w : Word) : (s.customCsrWrite a w).ctr = s.ctr := by unfold State.customCsrWrite; split <;> rfl

@[simp] theorem State.customCsrNote_cfg (s : State) (a : BitVec 12) : (s.customCsrNote a).cfg = s.cfg := by unfold State.customCsrNote; split <;> rfl
@[simp] theorem State.customCsrNote_priv (s : State) (a : BitVec 12) : (s.customCsrNote a).priv = s.priv := by unfold State.customCsrNote; split <;> rfl
@[simp] theorem State.customCsrNote_pc (s : State) (a : BitVec 12) : (s.customCsrNote a).pc = s.pc := by unfold State.customCsrNote; split <;> rfl
@[simp] theorem State.customCsrNote_x (s : State) (a : BitVec 12) : (s.customCsrNote a).x = s.x := by unfold State.customCsrNote; split <;> rfl
@[simp] theorem State.customCsrNote_csr (s : State) (a : BitVec 12) : (s.customCsrNote a).csr = s.csr := by unfold State.customCsrNote; split <;> rfl
@[simp] theorem State.customCsrNote_cnt (s : State) (a : BitVec 12) : (s.customCsrNote a).cnt = s.cnt := by unfold State.customCsrNote; split <;> rfl
@[simp] theorem State.customCsrNote_sup (s : State) (a : BitVec 12) : (s.customCsrNote a).sup = s.sup := by unfold State.customCsrNote; split <;> rfl
@[simp] theorem State.customCsrNote_rnmi (s : State) (a : BitVec 12) : (s.customCsrNote a).rnmi = s.rnmi := by unfold State.customCsrNote; split <;> rfl
@[simp] theorem State.customCsrNote_pmp (s : State) (a : BitVec 12) : (s.customCsrNote a).pmp = s.pmp := by unfold State.customCsrNote; split <;> rfl
@[simp] theorem State.customCsrNote_wait (s : State) (a : BitVec 12) : (s.customCsrNote a).wait = s.wait := by unfold State.customCsrNote; split <;> rfl
@[simp] theorem State.customCsrNote_criticalError (s : State) (a : BitVec 12) : (s.customCsrNote a).criticalError = s.criticalError := by unfold State.customCsrNote; split <;> rfl
@[simp] theorem State.customCsrNote_reservation (s : State) (a : BitVec 12) : (s.customCsrNote a).reservation = s.reservation := by unfold State.customCsrNote; split <;> rfl
@[simp] theorem State.customCsrNote_elp (s : State) (a : BitVec 12) : (s.customCsrNote a).elp = s.elp := by unfold State.customCsrNote; split <;> rfl
@[simp] theorem State.customCsrNote_plat (s : State) (a : BitVec 12) : (s.customCsrNote a).plat = s.plat := by unfold State.customCsrNote; split <;> rfl
@[simp] theorem State.customCsrNote_inputs (s : State) (a : BitVec 12) : (s.customCsrNote a).inputs = s.inputs := by unfold State.customCsrNote; split <;> rfl
@[simp] theorem State.customCsrNote_mem (s : State) (a : BitVec 12) : (s.customCsrNote a).mem = s.mem := by unfold State.customCsrNote; split <;> rfl
@[simp] theorem State.customCsrNote_ctr (s : State) (a : BitVec 12) : (s.customCsrNote a).ctr = s.ctr := by unfold State.customCsrNote; split <;> rfl

@[simp] theorem State.writeCounter_cfg (s : State) (n : Nat) (b : Bool) (w : Word) : (s.writeCounter n b w).cfg = s.cfg := by
  unfold State.writeCounter
  repeat' split
  all_goals rfl
@[simp] theorem State.writeCounter_priv (s : State) (n : Nat) (b : Bool) (w : Word) : (s.writeCounter n b w).priv = s.priv := by
  unfold State.writeCounter
  repeat' split
  all_goals rfl
@[simp] theorem State.writeCounter_pc (s : State) (n : Nat) (b : Bool) (w : Word) : (s.writeCounter n b w).pc = s.pc := by
  unfold State.writeCounter
  repeat' split
  all_goals rfl
@[simp] theorem State.writeCounter_x (s : State) (n : Nat) (b : Bool) (w : Word) : (s.writeCounter n b w).x = s.x := by
  unfold State.writeCounter
  repeat' split
  all_goals rfl
@[simp] theorem State.writeCounter_csr (s : State) (n : Nat) (b : Bool) (w : Word) : (s.writeCounter n b w).csr = s.csr := by
  unfold State.writeCounter
  repeat' split
  all_goals rfl
@[simp] theorem State.writeCounter_sup (s : State) (n : Nat) (b : Bool) (w : Word) : (s.writeCounter n b w).sup = s.sup := by
  unfold State.writeCounter
  repeat' split
  all_goals rfl
@[simp] theorem State.writeCounter_rnmi (s : State) (n : Nat) (b : Bool) (w : Word) : (s.writeCounter n b w).rnmi = s.rnmi := by
  unfold State.writeCounter
  repeat' split
  all_goals rfl
@[simp] theorem State.writeCounter_units (s : State) (n : Nat) (b : Bool) (w : Word) : (s.writeCounter n b w).units = s.units := by
  unfold State.writeCounter
  repeat' split
  all_goals rfl
@[simp] theorem State.writeCounter_pmp (s : State) (n : Nat) (b : Bool) (w : Word) : (s.writeCounter n b w).pmp = s.pmp := by
  unfold State.writeCounter
  repeat' split
  all_goals rfl
@[simp] theorem State.writeCounter_wait (s : State) (n : Nat) (b : Bool) (w : Word) : (s.writeCounter n b w).wait = s.wait := by
  unfold State.writeCounter
  repeat' split
  all_goals rfl
@[simp] theorem State.writeCounter_criticalError (s : State) (n : Nat) (b : Bool) (w : Word) : (s.writeCounter n b w).criticalError = s.criticalError := by
  unfold State.writeCounter
  repeat' split
  all_goals rfl
@[simp] theorem State.writeCounter_reservation (s : State) (n : Nat) (b : Bool) (w : Word) : (s.writeCounter n b w).reservation = s.reservation := by
  unfold State.writeCounter
  repeat' split
  all_goals rfl
@[simp] theorem State.writeCounter_elp (s : State) (n : Nat) (b : Bool) (w : Word) : (s.writeCounter n b w).elp = s.elp := by
  unfold State.writeCounter
  repeat' split
  all_goals rfl
@[simp] theorem State.writeCounter_plat (s : State) (n : Nat) (b : Bool) (w : Word) : (s.writeCounter n b w).plat = s.plat := by
  unfold State.writeCounter
  repeat' split
  all_goals rfl
@[simp] theorem State.writeCounter_inputs (s : State) (n : Nat) (b : Bool) (w : Word) : (s.writeCounter n b w).inputs = s.inputs := by
  unfold State.writeCounter
  repeat' split
  all_goals rfl
@[simp] theorem State.writeCounter_mem (s : State) (n : Nat) (b : Bool) (w : Word) : (s.writeCounter n b w).mem = s.mem := by
  unfold State.writeCounter
  repeat' split
  all_goals rfl
@[simp] theorem State.writeCounter_ctr (s : State) (n : Nat) (b : Bool) (w : Word) : (s.writeCounter n b w).ctr = s.ctr := by
  unfold State.writeCounter
  repeat' split
  all_goals rfl

@[simp] theorem State.writeHpmevent_cfg (s : State) (n : Nat) (b : Bool) (w : Word) : (s.writeHpmevent n b w).cfg = s.cfg := by
  simp only [State.writeHpmevent]
  repeat' split
  all_goals rfl
@[simp] theorem State.writeHpmevent_priv (s : State) (n : Nat) (b : Bool) (w : Word) : (s.writeHpmevent n b w).priv = s.priv := by
  simp only [State.writeHpmevent]
  repeat' split
  all_goals rfl
@[simp] theorem State.writeHpmevent_pc (s : State) (n : Nat) (b : Bool) (w : Word) : (s.writeHpmevent n b w).pc = s.pc := by
  simp only [State.writeHpmevent]
  repeat' split
  all_goals rfl
@[simp] theorem State.writeHpmevent_x (s : State) (n : Nat) (b : Bool) (w : Word) : (s.writeHpmevent n b w).x = s.x := by
  simp only [State.writeHpmevent]
  repeat' split
  all_goals rfl
@[simp] theorem State.writeHpmevent_sup (s : State) (n : Nat) (b : Bool) (w : Word) : (s.writeHpmevent n b w).sup = s.sup := by
  simp only [State.writeHpmevent]
  repeat' split
  all_goals rfl
@[simp] theorem State.writeHpmevent_rnmi (s : State) (n : Nat) (b : Bool) (w : Word) : (s.writeHpmevent n b w).rnmi = s.rnmi := by
  simp only [State.writeHpmevent]
  repeat' split
  all_goals rfl
@[simp] theorem State.writeHpmevent_units (s : State) (n : Nat) (b : Bool) (w : Word) : (s.writeHpmevent n b w).units = s.units := by
  simp only [State.writeHpmevent]
  repeat' split
  all_goals rfl
@[simp] theorem State.writeHpmevent_pmp (s : State) (n : Nat) (b : Bool) (w : Word) : (s.writeHpmevent n b w).pmp = s.pmp := by
  simp only [State.writeHpmevent]
  repeat' split
  all_goals rfl
@[simp] theorem State.writeHpmevent_wait (s : State) (n : Nat) (b : Bool) (w : Word) : (s.writeHpmevent n b w).wait = s.wait := by
  simp only [State.writeHpmevent]
  repeat' split
  all_goals rfl
@[simp] theorem State.writeHpmevent_criticalError (s : State) (n : Nat) (b : Bool) (w : Word) : (s.writeHpmevent n b w).criticalError = s.criticalError := by
  simp only [State.writeHpmevent]
  repeat' split
  all_goals rfl
@[simp] theorem State.writeHpmevent_reservation (s : State) (n : Nat) (b : Bool) (w : Word) : (s.writeHpmevent n b w).reservation = s.reservation := by
  simp only [State.writeHpmevent]
  repeat' split
  all_goals rfl
@[simp] theorem State.writeHpmevent_elp (s : State) (n : Nat) (b : Bool) (w : Word) : (s.writeHpmevent n b w).elp = s.elp := by
  simp only [State.writeHpmevent]
  repeat' split
  all_goals rfl
@[simp] theorem State.writeHpmevent_plat (s : State) (n : Nat) (b : Bool) (w : Word) : (s.writeHpmevent n b w).plat = s.plat := by
  simp only [State.writeHpmevent]
  repeat' split
  all_goals rfl
@[simp] theorem State.writeHpmevent_inputs (s : State) (n : Nat) (b : Bool) (w : Word) : (s.writeHpmevent n b w).inputs = s.inputs := by
  simp only [State.writeHpmevent]
  repeat' split
  all_goals rfl
@[simp] theorem State.writeHpmevent_mem (s : State) (n : Nat) (b : Bool) (w : Word) : (s.writeHpmevent n b w).mem = s.mem := by
  simp only [State.writeHpmevent]
  repeat' split
  all_goals rfl
@[simp] theorem State.writeHpmevent_ctr (s : State) (n : Nat) (b : Bool) (w : Word) : (s.writeHpmevent n b w).ctr = s.ctr := by
  simp only [State.writeHpmevent]
  repeat' split
  all_goals rfl

@[simp] theorem State.pmpaddrWrite_cfg (s : State) (n : Nat) (w : Word) : (s.pmpaddrWrite n w).cfg = s.cfg := by unfold State.pmpaddrWrite; split <;> rfl
@[simp] theorem State.pmpaddrWrite_priv (s : State) (n : Nat) (w : Word) : (s.pmpaddrWrite n w).priv = s.priv := by unfold State.pmpaddrWrite; split <;> rfl
@[simp] theorem State.pmpaddrWrite_pc (s : State) (n : Nat) (w : Word) : (s.pmpaddrWrite n w).pc = s.pc := by unfold State.pmpaddrWrite; split <;> rfl
@[simp] theorem State.pmpaddrWrite_x (s : State) (n : Nat) (w : Word) : (s.pmpaddrWrite n w).x = s.x := by unfold State.pmpaddrWrite; split <;> rfl
@[simp] theorem State.pmpaddrWrite_csr (s : State) (n : Nat) (w : Word) : (s.pmpaddrWrite n w).csr = s.csr := by unfold State.pmpaddrWrite; split <;> rfl
@[simp] theorem State.pmpaddrWrite_cnt (s : State) (n : Nat) (w : Word) : (s.pmpaddrWrite n w).cnt = s.cnt := by unfold State.pmpaddrWrite; split <;> rfl
@[simp] theorem State.pmpaddrWrite_sup (s : State) (n : Nat) (w : Word) : (s.pmpaddrWrite n w).sup = s.sup := by unfold State.pmpaddrWrite; split <;> rfl
@[simp] theorem State.pmpaddrWrite_rnmi (s : State) (n : Nat) (w : Word) : (s.pmpaddrWrite n w).rnmi = s.rnmi := by unfold State.pmpaddrWrite; split <;> rfl
@[simp] theorem State.pmpaddrWrite_units (s : State) (n : Nat) (w : Word) : (s.pmpaddrWrite n w).units = s.units := by unfold State.pmpaddrWrite; split <;> rfl
@[simp] theorem State.pmpaddrWrite_wait (s : State) (n : Nat) (w : Word) : (s.pmpaddrWrite n w).wait = s.wait := by unfold State.pmpaddrWrite; split <;> rfl
@[simp] theorem State.pmpaddrWrite_criticalError (s : State) (n : Nat) (w : Word) : (s.pmpaddrWrite n w).criticalError = s.criticalError := by unfold State.pmpaddrWrite; split <;> rfl
@[simp] theorem State.pmpaddrWrite_reservation (s : State) (n : Nat) (w : Word) : (s.pmpaddrWrite n w).reservation = s.reservation := by unfold State.pmpaddrWrite; split <;> rfl
@[simp] theorem State.pmpaddrWrite_elp (s : State) (n : Nat) (w : Word) : (s.pmpaddrWrite n w).elp = s.elp := by unfold State.pmpaddrWrite; split <;> rfl
@[simp] theorem State.pmpaddrWrite_plat (s : State) (n : Nat) (w : Word) : (s.pmpaddrWrite n w).plat = s.plat := by unfold State.pmpaddrWrite; split <;> rfl
@[simp] theorem State.pmpaddrWrite_inputs (s : State) (n : Nat) (w : Word) : (s.pmpaddrWrite n w).inputs = s.inputs := by unfold State.pmpaddrWrite; split <;> rfl
@[simp] theorem State.pmpaddrWrite_mem (s : State) (n : Nat) (w : Word) : (s.pmpaddrWrite n w).mem = s.mem := by unfold State.pmpaddrWrite; split <;> rfl
@[simp] theorem State.pmpaddrWrite_ctr (s : State) (n : Nat) (w : Word) : (s.pmpaddrWrite n w).ctr = s.ctr := by unfold State.pmpaddrWrite; split <;> rfl

@[simp] theorem State.csrWrite_cfg (s : State) (w : Word) (n : CsrName) : (s.csrWrite w n).cfg = s.cfg := by
  cases n <;> simp only [State.csrWrite]
  all_goals first | rfl | (split <;> rfl) | simp
@[simp] theorem State.csrWrite_priv (s : State) (w : Word) (n : CsrName) : (s.csrWrite w n).priv = s.priv := by
  cases n <;> simp only [State.csrWrite]
  all_goals first | rfl | (split <;> rfl) | simp
@[simp] theorem State.csrWrite_pc (s : State) (w : Word) (n : CsrName) : (s.csrWrite w n).pc = s.pc := by
  cases n <;> simp only [State.csrWrite]
  all_goals first | rfl | (split <;> rfl) | simp
@[simp] theorem State.csrWrite_wait (s : State) (w : Word) (n : CsrName) : (s.csrWrite w n).wait = s.wait := by
  cases n <;> simp only [State.csrWrite]
  all_goals first | rfl | (split <;> rfl) | simp
@[simp] theorem State.csrWrite_criticalError (s : State) (w : Word) (n : CsrName) : (s.csrWrite w n).criticalError = s.criticalError := by
  cases n <;> simp only [State.csrWrite]
  all_goals first | rfl | (split <;> rfl) | simp
@[simp] theorem State.csrWrite_plat (s : State) (w : Word) (n : CsrName) : (s.csrWrite w n).plat = s.plat := by
  cases n <;> simp only [State.csrWrite]
  all_goals first | rfl | (split <;> rfl) | simp
@[simp] theorem State.csrWrite_inputs (s : State) (w : Word) (n : CsrName) : (s.csrWrite w n).inputs = s.inputs := by
  cases n <;> simp only [State.csrWrite]
  all_goals first | rfl | (split <;> rfl) | simp
@[simp] theorem State.csrWrite_mem (s : State) (w : Word) (n : CsrName) : (s.csrWrite w n).mem = s.mem := by
  cases n <;> simp only [State.csrWrite]
  all_goals first | rfl | (split <;> rfl) | simp
@[simp] theorem State.csrWrite_ctr (s : State) (w : Word) (n : CsrName) : (s.csrWrite w n).ctr = s.ctr := by
  cases n <;> simp only [State.csrWrite]
  all_goals first | rfl | (split <;> rfl) | simp

/-- A CSR write leaves the registers that the hart has now (10_state.md R39). -/
theorem State.csrWrite_x_get (s : State) (w : Word) (n : CsrName) (i : Nat) (hi : i < 32) (h : s.rvE = false ∨ i < 16) :
    (s.csrWrite w n).x[i] = s.x[i] := by
  cases n <;> simp only [State.csrWrite]
  case misa => exact s.writeMisa_x_get w i hi h
  all_goals first | rfl | (split <;> rfl) | simp

/-- A CSR write changes no integer register, a write of `misa` apart. -/
theorem State.csrWrite_x (s : State) (w : Word) (n : CsrName) (h : n ≠ .misa) : (s.csrWrite w n).x = s.x := by
  cases n <;> simp only [State.csrWrite]
  case misa => exact absurd rfl h
  all_goals first | rfl | (split <;> rfl) | simp

/-- A CSR write keeps `ELP` or, a write of `mseccfg`, clears it (12_state_config_pmp_mmio.md R202). -/
theorem State.csrWrite_elp (s : State) (w : Word) (n : CsrName) :
    (s.csrWrite w n).elp = s.elp ∨ ((n = .mseccfg ∨ n = .mseccfgh) ∧ (s.csrWrite w n).elp = false) := by
  cases n
  case mseccfg => exact (State.settleElp_elp _).imp_right (fun h => ⟨.inl rfl, h⟩)
  case mseccfgh => exact (State.settleElp_elp _).imp_right (fun h => ⟨.inr rfl, h⟩)
  all_goals simp only [State.csrWrite]
  all_goals first | exact .inl rfl | (left; split <;> rfl) | (left; simp)

@[simp] theorem State.noteRead_cfg (s : State) (n : CsrName) : (s.noteRead n).cfg = s.cfg := by cases n <;> first | rfl | simp [State.noteRead]
@[simp] theorem State.noteRead_priv (s : State) (n : CsrName) : (s.noteRead n).priv = s.priv := by cases n <;> first | rfl | simp [State.noteRead]
@[simp] theorem State.noteRead_pc (s : State) (n : CsrName) : (s.noteRead n).pc = s.pc := by cases n <;> first | rfl | simp [State.noteRead]
@[simp] theorem State.noteRead_x (s : State) (n : CsrName) : (s.noteRead n).x = s.x := by cases n <;> first | rfl | simp [State.noteRead]
@[simp] theorem State.noteRead_cnt (s : State) (n : CsrName) : (s.noteRead n).cnt = s.cnt := by cases n <;> first | rfl | simp [State.noteRead]
@[simp] theorem State.noteRead_sup (s : State) (n : CsrName) : (s.noteRead n).sup = s.sup := by cases n <;> first | rfl | simp [State.noteRead]
@[simp] theorem State.noteRead_rnmi (s : State) (n : CsrName) : (s.noteRead n).rnmi = s.rnmi := by cases n <;> first | rfl | simp [State.noteRead]
@[simp] theorem State.noteRead_pmp (s : State) (n : CsrName) : (s.noteRead n).pmp = s.pmp := by cases n <;> first | rfl | simp [State.noteRead]
@[simp] theorem State.noteRead_wait (s : State) (n : CsrName) : (s.noteRead n).wait = s.wait := by cases n <;> first | rfl | simp [State.noteRead]
@[simp] theorem State.noteRead_criticalError (s : State) (n : CsrName) : (s.noteRead n).criticalError = s.criticalError := by cases n <;> first | rfl | simp [State.noteRead]
@[simp] theorem State.noteRead_reservation (s : State) (n : CsrName) : (s.noteRead n).reservation = s.reservation := by cases n <;> first | rfl | simp [State.noteRead]
@[simp] theorem State.noteRead_elp (s : State) (n : CsrName) : (s.noteRead n).elp = s.elp := by cases n <;> first | rfl | simp [State.noteRead]
@[simp] theorem State.noteRead_plat (s : State) (n : CsrName) : (s.noteRead n).plat = s.plat := by cases n <;> first | rfl | simp [State.noteRead]
@[simp] theorem State.noteRead_inputs (s : State) (n : CsrName) : (s.noteRead n).inputs = s.inputs := by cases n <;> first | rfl | simp [State.noteRead]
@[simp] theorem State.noteRead_mem (s : State) (n : CsrName) : (s.noteRead n).mem = s.mem := by cases n <;> first | rfl | simp [State.noteRead]
@[simp] theorem State.noteRead_ctr (s : State) (n : CsrName) : (s.noteRead n).ctr = s.ctr := by cases n <;> first | rfl | simp [State.noteRead]

@[simp] theorem State.csrPerform_cfg (s : State) (u : CsrUse) (n : CsrName) : (s.csrPerform u n).cfg = s.cfg := by
  simp only [State.csrPerform, State.csrAfterWrite, State.csrAfterRead]
  repeat' split
  all_goals simp
@[simp] theorem State.csrPerform_priv (s : State) (u : CsrUse) (n : CsrName) : (s.csrPerform u n).priv = s.priv := by
  simp only [State.csrPerform, State.csrAfterWrite, State.csrAfterRead]
  repeat' split
  all_goals simp
@[simp] theorem State.csrPerform_wait (s : State) (u : CsrUse) (n : CsrName) : (s.csrPerform u n).wait = s.wait := by
  simp only [State.csrPerform, State.csrAfterWrite, State.csrAfterRead]
  repeat' split
  all_goals simp
@[simp] theorem State.csrPerform_criticalError (s : State) (u : CsrUse) (n : CsrName) : (s.csrPerform u n).criticalError = s.criticalError := by
  simp only [State.csrPerform, State.csrAfterWrite, State.csrAfterRead]
  repeat' split
  all_goals simp
@[simp] theorem State.csrPerform_plat (s : State) (u : CsrUse) (n : CsrName) : (s.csrPerform u n).plat = s.plat := by
  simp only [State.csrPerform, State.csrAfterWrite, State.csrAfterRead]
  repeat' split
  all_goals simp
@[simp] theorem State.csrPerform_inputs (s : State) (u : CsrUse) (n : CsrName) : (s.csrPerform u n).inputs = s.inputs := by
  simp only [State.csrPerform, State.csrAfterWrite, State.csrAfterRead]
  repeat' split
  all_goals simp
@[simp] theorem State.csrPerform_mem (s : State) (u : CsrUse) (n : CsrName) : (s.csrPerform u n).mem = s.mem := by
  simp only [State.csrPerform, State.csrAfterWrite, State.csrAfterRead]
  repeat' split
  all_goals simp
@[simp] theorem State.csrPerform_ctr (s : State) (u : CsrUse) (n : CsrName) : (s.csrPerform u n).ctr = s.ctr := by
  simp only [State.csrPerform, State.csrAfterWrite, State.csrAfterRead]
  repeat' split
  all_goals simp

end Sys2Proof.Machine
end

