-- ==== Sys2Proof/Laws/Access.lean ====
section
/-! SUPPORT. What accesses, base instructions and the platform's part of a step can do, said once. -/

namespace Sys2Proof.Machine

/-! ### Bytes -/

/-- A byte write changes memory or one memory-mapped register. -/
theorem State.physWrite_cases (s : State) (a : Nat) (b : Byte) :
    (∃ p, s.physWrite a b = s.setPlat p) ∨ s.physWrite a b = s.setMem (Memory.write s.mem a b) := by
  unfold State.physWrite
  split
  · rename_i d o _
    cases d <;> exact .inl ⟨_, rfl⟩
  · exact .inr rfl

@[simp] theorem State.physWrite_cfg (s : State) (a : Nat) (b : Byte) : (s.physWrite a b).cfg = s.cfg := by
  rcases s.physWrite_cases a b with ⟨p, h⟩ | h <;> rw [h] <;> rfl
@[simp] theorem State.physWrite_priv (s : State) (a : Nat) (b : Byte) : (s.physWrite a b).priv = s.priv := by
  rcases s.physWrite_cases a b with ⟨p, h⟩ | h <;> rw [h] <;> rfl
@[simp] theorem State.physWrite_pc (s : State) (a : Nat) (b : Byte) : (s.physWrite a b).pc = s.pc := by
  rcases s.physWrite_cases a b with ⟨p, h⟩ | h <;> rw [h] <;> rfl
@[simp] theorem State.physWrite_x (s : State) (a : Nat) (b : Byte) : (s.physWrite a b).x = s.x := by
  rcases s.physWrite_cases a b with ⟨p, h⟩ | h <;> rw [h] <;> rfl
@[simp] theorem State.physWrite_csr (s : State) (a : Nat) (b : Byte) : (s.physWrite a b).csr = s.csr := by
  rcases s.physWrite_cases a b with ⟨p, h⟩ | h <;> rw [h] <;> rfl
@[simp] theorem State.physWrite_cnt (s : State) (a : Nat) (b : Byte) : (s.physWrite a b).cnt = s.cnt := by
  rcases s.physWrite_cases a b with ⟨p, h⟩ | h <;> rw [h] <;> rfl
@[simp] theorem State.physWrite_sup (s : State) (a : Nat) (b : Byte) : (s.physWrite a b).sup = s.sup := by
  rcases s.physWrite_cases a b with ⟨p, h⟩ | h <;> rw [h] <;> rfl
@[simp] theorem State.physWrite_rnmi (s : State) (a : Nat) (b : Byte) : (s.physWrite a b).rnmi = s.rnmi := by
  rcases s.physWrite_cases a b with ⟨p, h⟩ | h <;> rw [h] <;> rfl
@[simp] theorem State.physWrite_units (s : State) (a : Nat) (b : Byte) : (s.physWrite a b).units = s.units := by
  rcases s.physWrite_cases a b with ⟨p, h⟩ | h <;> rw [h] <;> rfl
@[simp] theorem State.physWrite_pmp (s : State) (a : Nat) (b : Byte) : (s.physWrite a b).pmp = s.pmp := by
  rcases s.physWrite_cases a b with ⟨p, h⟩ | h <;> rw [h] <;> rfl
@[simp] theorem State.physWrite_wait (s : State) (a : Nat) (b : Byte) : (s.physWrite a b).wait = s.wait := by
  rcases s.physWrite_cases a b with ⟨p, h⟩ | h <;> rw [h] <;> rfl
@[simp] theorem State.physWrite_criticalError (s : State) (a : Nat) (b : Byte) : (s.physWrite a b).criticalError = s.criticalError := by
  rcases s.physWrite_cases a b with ⟨p, h⟩ | h <;> rw [h] <;> rfl
@[simp] theorem State.physWrite_reservation (s : State) (a : Nat) (b : Byte) : (s.physWrite a b).reservation = s.reservation := by
  rcases s.physWrite_cases a b with ⟨p, h⟩ | h <;> rw [h] <;> rfl
@[simp] theorem State.physWrite_elp (s : State) (a : Nat) (b : Byte) : (s.physWrite a b).elp = s.elp := by
  rcases s.physWrite_cases a b with ⟨p, h⟩ | h <;> rw [h] <;> rfl
@[simp] theorem State.physWrite_inputs (s : State) (a : Nat) (b : Byte) : (s.physWrite a b).inputs = s.inputs := by
  rcases s.physWrite_cases a b with ⟨p, h⟩ | h <;> rw [h] <;> rfl
@[simp] theorem State.physWrite_ctr (s : State) (a : Nat) (b : Byte) : (s.physWrite a b).ctr = s.ctr := by
  rcases s.physWrite_cases a b with ⟨p, h⟩ | h <;> rw [h] <;> rfl

@[simp] theorem State.physWriteAll_cfg (s : State) (cs : List (Nat × Byte)) : (s.physWriteAll cs).cfg = s.cfg := by
  induction cs generalizing s with
  | nil => rfl
  | cons c cs ih => simp [State.physWriteAll, ih]
@[simp] theorem State.physWriteAll_priv (s : State) (cs : List (Nat × Byte)) : (s.physWriteAll cs).priv = s.priv := by
  induction cs generalizing s with
  | nil => rfl
  | cons c cs ih => simp [State.physWriteAll, ih]
@[simp] theorem State.physWriteAll_pc (s : State) (cs : List (Nat × Byte)) : (s.physWriteAll cs).pc = s.pc := by
  induction cs generalizing s with
  | nil => rfl
  | cons c cs ih => simp [State.physWriteAll, ih]
@[simp] theorem State.physWriteAll_x (s : State) (cs : List (Nat × Byte)) : (s.physWriteAll cs).x = s.x := by
  induction cs generalizing s with
  | nil => rfl
  | cons c cs ih => simp [State.physWriteAll, ih]
@[simp] theorem State.physWriteAll_csr (s : State) (cs : List (Nat × Byte)) : (s.physWriteAll cs).csr = s.csr := by
  induction cs generalizing s with
  | nil => rfl
  | cons c cs ih => simp [State.physWriteAll, ih]
@[simp] theorem State.physWriteAll_cnt (s : State) (cs : List (Nat × Byte)) : (s.physWriteAll cs).cnt = s.cnt := by
  induction cs generalizing s with
  | nil => rfl
  | cons c cs ih => simp [State.physWriteAll, ih]
@[simp] theorem State.physWriteAll_sup (s : State) (cs : List (Nat × Byte)) : (s.physWriteAll cs).sup = s.sup := by
  induction cs generalizing s with
  | nil => rfl
  | cons c cs ih => simp [State.physWriteAll, ih]
@[simp] theorem State.physWriteAll_rnmi (s : State) (cs : List (Nat × Byte)) : (s.physWriteAll cs).rnmi = s.rnmi := by
  induction cs generalizing s with
  | nil => rfl
  | cons c cs ih => simp [State.physWriteAll, ih]
@[simp] theorem State.physWriteAll_units (s : State) (cs : List (Nat × Byte)) : (s.physWriteAll cs).units = s.units := by
  induction cs generalizing s with
  | nil => rfl
  | cons c cs ih => simp [State.physWriteAll, ih]
@[simp] theorem State.physWriteAll_pmp (s : State) (cs : List (Nat × Byte)) : (s.physWriteAll cs).pmp = s.pmp := by
  induction cs generalizing s with
  | nil => rfl
  | cons c cs ih => simp [State.physWriteAll, ih]
@[simp] theorem State.physWriteAll_wait (s : State) (cs : List (Nat × Byte)) : (s.physWriteAll cs).wait = s.wait := by
  induction cs generalizing s with
  | nil => rfl
  | cons c cs ih => simp [State.physWriteAll, ih]
@[simp] theorem State.physWriteAll_criticalError (s : State) (cs : List (Nat × Byte)) : (s.physWriteAll cs).criticalError = s.criticalError := by
  induction cs generalizing s with
  | nil => rfl
  | cons c cs ih => simp [State.physWriteAll, ih]
@[simp] theorem State.physWriteAll_reservation (s : State) (cs : List (Nat × Byte)) : (s.physWriteAll cs).reservation = s.reservation := by
  induction cs generalizing s with
  | nil => rfl
  | cons c cs ih => simp [State.physWriteAll, ih]
@[simp] theorem State.physWriteAll_elp (s : State) (cs : List (Nat × Byte)) : (s.physWriteAll cs).elp = s.elp := by
  induction cs generalizing s with
  | nil => rfl
  | cons c cs ih => simp [State.physWriteAll, ih]
@[simp] theorem State.physWriteAll_inputs (s : State) (cs : List (Nat × Byte)) : (s.physWriteAll cs).inputs = s.inputs := by
  induction cs generalizing s with
  | nil => rfl
  | cons c cs ih => simp [State.physWriteAll, ih]
@[simp] theorem State.physWriteAll_ctr (s : State) (cs : List (Nat × Byte)) : (s.physWriteAll cs).ctr = s.ctr := by
  induction cs generalizing s with
  | nil => rfl
  | cons c cs ih => simp [State.physWriteAll, ih]

/-- A byte write keeps memory canonical. -/
theorem State.physWrite_wf (s : State) (a : Nat) (b : Byte) (h : Memory.wf s.mem = true) :
    Memory.wf (s.physWrite a b).mem = true := by
  rcases s.physWrite_cases a b with ⟨p, e⟩ | e <;> rw [e]
  · exact h
  · exact Memory.wf_write _ _ _ h

/-- Byte writes keep memory canonical. -/
theorem State.physWriteAll_wf (s : State) (cs : List (Nat × Byte)) (h : Memory.wf s.mem = true) :
    Memory.wf (s.physWriteAll cs).mem = true := by
  induction cs generalizing s with
  | nil => exact h
  | cons c cs ih => exact ih _ (s.physWrite_wf _ _ h)

/-- A byte of plain memory after a byte write to plain memory. -/
theorem State.physRead_physWrite (s : State) (a a' : Nat) (b : Byte) (h : deviceAt s.cfg a = none)
    (h' : deviceAt s.cfg a' = none) : (s.physWrite a b).physRead a' = if a' = a then b else s.physRead a' := by
  simp [State.physRead, State.physWrite, h, h']

/-! ### Accesses -/

/-- A read that raises leaves the state alone. -/
theorem State.memRead_exc (s t : State) (ea : Word) (n : Nat) (k : AccessClass) (c : Nat) (v : Word)
    (h : s.memRead ea n k = .exc t c v) : t = s := by
  unfold State.memRead at h
  split at h <;> cases h
  all_goals rfl

/-- A write that completes has written bytes. -/
theorem State.memWrite_ok (s t : State) (ea v : Word) (n : Nat) (k : AccessClass)
    (h : s.memWrite ea n v k = .ok t) : t = s.physWriteAll (s.storeCells ea n v) := by
  unfold State.memWrite at h
  split at h <;> cases h
  all_goals rfl

/-- A write that raises has written some bytes or none. -/
theorem State.memWrite_exc (s t : State) (ea v w : Word) (n : Nat) (k : AccessClass) (c : Nat)
    (h : s.memWrite ea n v k = .exc t c w) : ∃ cs, t = s.physWriteAll cs := by
  unfold State.memWrite at h
  split at h
  · cases h
  · cases h; exact ⟨[], rfl⟩
  · cases h
    split
    · exact ⟨_, rfl⟩
    · exact ⟨[], rfl⟩
  · cases h

/-- One operation of a fetch that raises leaves the state alone. -/
theorem State.fetchOp_exc (s t : State) (v w : Word) (n c : Nat) (h : s.fetchOp v n = .exc t c w) : t = s := by
  unfold State.fetchOp at h
  split at h <;> cases h
  all_goals rfl

/-- A fetch that raises leaves the state alone. -/
theorem State.fetch_exc (s t : State) (c : Nat) (w : Word) (h : s.fetch = .exc t c w) : t = s := by
  unfold State.fetch at h
  split at h
  · split at h
    · split at h
      · split at h
        · cases h
        · exact s.fetchOp_exc t _ w _ c h
      · cases h
    · exact s.fetchOp_exc t _ w _ c h
  · exact s.fetchOp_exc t _ w _ c h

/-- The tail of a longer instruction whose fetch raises leaves the state alone. -/
theorem State.fetchTail_exc (s t : State) (n c : Nat) (w : Word) (h : s.fetchTail n = .exc t c w) : t = s := by
  unfold State.fetchTail at h
  split at h
  · exact s.fetchOp_exc t _ w _ c h
  · split at h
    · split at h
      · cases h
      · exact s.fetchOp_exc t _ w _ c h
    · exact s.fetchOp_exc t _ w _ c h

/-! ### Base instructions -/

/-- What an instruction of Volume I does to the state: it stores bytes or none, and then raises, or retires with one
register written and a jump to the next instruction or to an aligned target, and as an indirect jump or LPAD `ELP` too. -/
def baseEffect (s t : State) : Prop :=
  ∃ cs, (∃ c v, t = (s.physWriteAll cs).raise c v) ∨
    ∃ r v a u, u = (((s.physWriteAll cs).countRetired none).writeX s.xlen r v).jump a ∧ (t = u ∨ t = u.elpStep) ∧
      (a = s.pc + 4 ∨ s.aligned a = true ∨ s.extC = true ∧ a = s.pc + 2)

theorem baseEffect_raise (s : State) (c : Nat) (v : Word) : baseEffect s (s.raise c v) := ⟨[], .inl ⟨c, v, rfl⟩⟩

theorem baseEffect_illegal (s : State) (w : BitVec 32) : baseEffect s (s.illegal w) := baseEffect_raise _ _ _

theorem baseEffect_finish (s : State) (r : BitVec 5) (v : Word) : baseEffect s (s.finish r v) :=
  ⟨[], .inr ⟨r, v, _, _, rfl, .inl rfl, .inl rfl⟩⟩

theorem baseEffect_auipc (s : State) (w : BitVec 32) : baseEffect s (s.auipc w) := by
  unfold State.auipc
  split
  · exact ⟨[], .inr ⟨0, _, _, _, rfl, .inr rfl, .inl rfl⟩⟩
  · exact baseEffect_finish _ _ _

theorem baseEffect_retire2 (s : State) (h : s.extC = true) : baseEffect s (s.retire 2) :=
  ⟨[], .inr ⟨0, 0, _, _, rfl, .inl rfl, .inr (.inr ⟨h, rfl⟩)⟩⟩

theorem baseEffect_retire (s : State) : baseEffect s (s.retire 4) := ⟨[], .inr ⟨0, 0, _, _, rfl, .inl rfl, .inl rfl⟩⟩

theorem baseEffect_opImmResult (s : State) (w : BitVec 32) (v : Word) : baseEffect s (s.opImmResult w v) := by
  unfold State.opImmResult
  split
  · exact baseEffect_retire _
  · exact baseEffect_finish _ _ _

theorem baseEffect_transfer (s : State) (r : BitVec 5) (t : Word) : baseEffect s (s.transfer r t) := by
  simp only [State.transfer]
  split
  · rename_i h
    exact ⟨[], .inr ⟨r, _, _, _, rfl, .inl rfl, .inr (.inl h)⟩⟩
  · exact baseEffect_raise _ _ _

theorem baseEffect_indirect (s : State) (r : BitVec 5) (t : Word) : baseEffect s (s.indirect r t) := by
  unfold State.indirect
  split
  · rename_i h
    simp only [State.transfer, if_pos h]
    exact ⟨[], .inr ⟨r, _, _, _, rfl, .inr rfl, .inr (.inl h)⟩⟩
  · exact baseEffect_transfer _ _ _

/-- An outcome whose next state, if it has one, is an effect of a base instruction. -/
def baseOutcome (s : State) (o : Host.Outcome State Fault Refusal) : Prop := ∀ t, o = .next t → baseEffect s t

theorem baseOutcome_next (s t : State) (h : baseEffect s t) : baseOutcome s (.next t) := by
  intro u e; cases e; exact h

theorem baseOutcome_unknown (s : State) (w : BitVec 32) : baseOutcome s (s.unknownWord w) := by
  unfold State.unknownWord
  split
  · intro t e; cases e
  · exact baseOutcome_next _ _ (baseEffect_illegal _ _)

theorem baseOutcome_load (s : State) (w : BitVec 32) : baseOutcome s (s.load w) := by
  simp only [State.load]
  split
  · exact baseOutcome_unknown _ _
  · unfold State.onAccess
    split
    · exact baseOutcome_next _ _ (baseEffect_finish _ _ _)
    · rename_i h
      rw [s.memRead_exc _ _ _ _ _ _ h]
      exact baseOutcome_next _ _ (baseEffect_raise _ _ _)
    · intro t e; cases e

theorem baseOutcome_store (s : State) (w : BitVec 32) : baseOutcome s (s.store w) := by
  simp only [State.store]
  split
  · exact baseOutcome_unknown _ _
  · unfold State.onAccess
    split
    · rename_i h
      rw [s.memWrite_ok _ _ _ _ _ h]
      exact baseOutcome_next _ _ ⟨s.storeCells _ _ _, .inr ⟨0, 0, s.pc + 4, _, rfl, .inl rfl, .inl rfl⟩⟩
    · rename_i h
      obtain ⟨cs, e⟩ := s.memWrite_exc _ _ _ _ _ _ _ h
      rw [e]
      exact baseOutcome_next _ _ ⟨cs, .inl ⟨_, _, rfl⟩⟩
    · intro t e; cases e

theorem baseOutcome_outside (s : State) (w : BitVec 32) (b : Bool) : baseOutcome s (s.outside w b) := by
  unfold State.outside
  split
  · intro t e; cases e
  · exact baseOutcome_unknown _ _

theorem baseOutcome_float (s : State) (w : BitVec 32) (b : Bool) (l : List (BitVec 2)) :
    baseOutcome s (s.floatWord w b l) := by
  unfold State.floatWord
  repeat' split
  · exact baseOutcome_next _ _ (baseEffect_illegal _ _)
  · exact baseOutcome_outside _ _ _
  · exact baseOutcome_unknown _ _

theorem baseOutcome_vector (s : State) (w : BitVec 32) : baseOutcome s (s.vectorWord w) := by
  unfold State.vectorWord
  repeat' split
  · exact baseOutcome_next _ _ (baseEffect_illegal _ _)
  · exact baseOutcome_outside _ _ _
  · exact baseOutcome_unknown _ _

theorem baseOutcome_compressed (s : State) (w : BitVec 32) : baseOutcome s (s.compressed w) := by
  unfold State.compressed
  split
  · rename_i hc
    repeat' split
    · exact baseOutcome_float _ _ _ _
    · exact baseOutcome_next _ _ (baseEffect_retire2 _ hc)
    · intro t e; cases e
    · exact baseOutcome_next _ _ (baseEffect_illegal _ _)
    · exact baseOutcome_outside _ _ _
  · exact baseOutcome_next _ _ (baseEffect_illegal _ _)

theorem baseOutcome_otherSystem (s : State) (w : BitVec 32) : baseOutcome s (s.otherSystem w) := by
  unfold State.otherSystem
  repeat' split
  · exact baseOutcome_next _ _ (baseEffect_finish _ _ _)
  · intro t e; cases e
  · exact baseOutcome_next _ _ (baseEffect_illegal _ _)

theorem baseOutcome_amo (s : State) (w : BitVec 32) : baseOutcome s (s.amo w) := by
  unfold State.amo
  split
  · exact baseOutcome_next _ _ (baseEffect_illegal _ _)
  · exact baseOutcome_unknown _ _

theorem baseOutcome_miscMem (s : State) (w : BitVec 32) : baseOutcome s (s.miscMem w) := by
  unfold State.miscMem
  split
  · exact baseOutcome_next _ _ (baseEffect_retire _)
  · split
    · split
      · exact baseOutcome_next _ _ (baseEffect_illegal _ _)
      · exact baseOutcome_outside _ _ _
    · exact baseOutcome_unknown _ _

theorem baseOutcome_opImm (s : State) (w : BitVec 32) : baseOutcome s (s.opImm w) := by
  simp only [State.opImm]
  repeat' split
  all_goals first
    | exact baseOutcome_unknown _ _
    | exact baseOutcome_next _ _ (baseEffect_finish _ _ _)
    | exact baseOutcome_next _ _ (baseEffect_transfer _ _ _)
    | exact baseOutcome_next _ _ (baseEffect_opImmResult _ _ _)
    | exact baseOutcome_next _ _ (baseEffect_retire _)

theorem baseOutcome_opReg (s : State) (w : BitVec 32) : baseOutcome s (s.opReg w) := by
  simp only [State.opReg]
  repeat' split
  all_goals first
    | exact baseOutcome_unknown _ _
    | exact baseOutcome_next _ _ (baseEffect_finish _ _ _)
    | exact baseOutcome_next _ _ (baseEffect_transfer _ _ _)
    | exact baseOutcome_next _ _ (baseEffect_retire _)

theorem baseOutcome_opImm32 (s : State) (w : BitVec 32) : baseOutcome s (s.opImm32 w) := by
  simp only [State.opImm32]
  repeat' split
  all_goals first
    | exact baseOutcome_unknown _ _
    | exact baseOutcome_next _ _ (baseEffect_finish _ _ _)
    | exact baseOutcome_next _ _ (baseEffect_transfer _ _ _)
    | exact baseOutcome_next _ _ (baseEffect_retire _)

theorem baseOutcome_opReg32 (s : State) (w : BitVec 32) : baseOutcome s (s.opReg32 w) := by
  simp only [State.opReg32]
  repeat' split
  all_goals first
    | exact baseOutcome_unknown _ _
    | exact baseOutcome_next _ _ (baseEffect_finish _ _ _)
    | exact baseOutcome_next _ _ (baseEffect_transfer _ _ _)
    | exact baseOutcome_next _ _ (baseEffect_retire _)

theorem baseOutcome_branch (s : State) (w : BitVec 32) : baseOutcome s (s.branch w) := by
  simp only [State.branch]
  repeat' split
  all_goals first
    | exact baseOutcome_unknown _ _
    | exact baseOutcome_next _ _ (baseEffect_finish _ _ _)
    | exact baseOutcome_next _ _ (baseEffect_transfer _ _ _)
    | exact baseOutcome_next _ _ (baseEffect_retire _)

theorem baseOutcome_jalr (s : State) (w : BitVec 32) : baseOutcome s (s.jalr w) := by
  unfold State.jalr
  split
  · exact baseOutcome_next _ _ (baseEffect_indirect _ _ _)
  · exact baseOutcome_unknown _ _

theorem baseOutcome_floatAccess (s : State) (w : BitVec 32) : baseOutcome s (s.floatAccess w) := by
  unfold State.floatAccess
  split
  · exact baseOutcome_vector _ _
  · exact baseOutcome_float _ _ _ _

theorem baseOutcome_ite (s : State) (c : Prop) [Decidable c] (a b : Host.Outcome State Fault Refusal)
    (ha : baseOutcome s a) (hb : baseOutcome s b) : baseOutcome s (if c then a else b) := by
  split
  · exact ha
  · exact hb

theorem baseOutcome_opcode (s : State) (w : BitVec 32) : baseOutcome s (s.baseOpcode w) := by
  unfold State.baseOpcode
  refine baseOutcome_ite _ _ _ _ (baseOutcome_compressed _ _) ?_
  refine baseOutcome_ite _ _ _ _ (baseOutcome_next _ _ (baseEffect_finish _ _ _)) ?_
  refine baseOutcome_ite _ _ _ _ (baseOutcome_next _ _ (baseEffect_auipc _ _)) ?_
  refine baseOutcome_ite _ _ _ _ (baseOutcome_next _ _ (baseEffect_transfer _ _ _)) ?_
  refine baseOutcome_ite _ _ _ _ (baseOutcome_jalr _ _) ?_
  refine baseOutcome_ite _ _ _ _ (baseOutcome_branch _ _) ?_
  refine baseOutcome_ite _ _ _ _ (baseOutcome_load _ _) ?_
  refine baseOutcome_ite _ _ _ _ (baseOutcome_store _ _) ?_
  refine baseOutcome_ite _ _ _ _ (baseOutcome_opImm _ _) ?_
  refine baseOutcome_ite _ _ _ _ (baseOutcome_opReg _ _) ?_
  refine baseOutcome_ite _ _ _ _ (baseOutcome_opImm32 _ _) ?_
  refine baseOutcome_ite _ _ _ _ (baseOutcome_opReg32 _ _) ?_
  refine baseOutcome_ite _ _ _ _ (baseOutcome_miscMem _ _) ?_
  refine baseOutcome_ite _ _ _ _ (baseOutcome_floatAccess _ _) ?_
  refine baseOutcome_ite _ _ _ _ (baseOutcome_float _ _ _ _) ?_
  refine baseOutcome_ite _ _ _ _ (baseOutcome_vector _ _) ?_
  refine baseOutcome_ite _ _ _ _ (baseOutcome_amo _ _) ?_
  refine baseOutcome_ite _ _ _ _ (baseOutcome_otherSystem _ _) ?_
  exact baseOutcome_unknown _ _

/-- Everything that a word of Volume I can do. -/
theorem State.baseExec_next (s t : State) (w : BitVec 32) (h : s.baseExec w = .next t) : baseEffect s t := by
  unfold State.baseExec at h
  split at h
  · exact baseOutcome_next _ _ (baseEffect_illegal _ _) t h
  · exact baseOutcome_opcode s w t h

/-! ### The platform's part of a step -/

@[simp] theorem State.requested_csr_other (s : State) (p : PlatIn) :
    (s.requested p).csr = { s.csr with ssip := (s.requested p).csr.ssip, platSw := (s.requested p).csr.platSw } := by
  unfold State.requested; split <;> rfl

@[simp] theorem State.sampled_cfg (s : State) (p : PlatIn) : (s.sampled p).cfg = s.cfg := by
  simp only [State.sampled, State.setCtr_cfg, State.setInputs_cfg]
  unfold State.requested State.synchronised State.platformMoves
  repeat' split
  all_goals simp
@[simp] theorem State.sampled_priv (s : State) (p : PlatIn) : (s.sampled p).priv = s.priv := by
  simp only [State.sampled, State.setCtr_priv, State.setInputs_priv]
  unfold State.requested State.synchronised State.platformMoves
  repeat' split
  all_goals simp
@[simp] theorem State.sampled_pc (s : State) (p : PlatIn) : (s.sampled p).pc = s.pc := by
  simp only [State.sampled, State.setCtr_pc, State.setInputs_pc]
  unfold State.requested State.synchronised State.platformMoves
  repeat' split
  all_goals simp
@[simp] theorem State.sampled_x (s : State) (p : PlatIn) : (s.sampled p).x = s.x := by
  simp only [State.sampled, State.setCtr_x, State.setInputs_x]
  unfold State.requested State.synchronised State.platformMoves
  repeat' split
  all_goals simp
@[simp] theorem State.sampled_cnt (s : State) (p : PlatIn) : (s.sampled p).cnt = s.cnt := by
  simp only [State.sampled, State.setCtr_cnt, State.setInputs_cnt]
  unfold State.requested State.synchronised State.platformMoves
  repeat' split
  all_goals simp
@[simp] theorem State.sampled_sup (s : State) (p : PlatIn) : (s.sampled p).sup = s.sup := by
  simp only [State.sampled, State.setCtr_sup, State.setInputs_sup]
  unfold State.requested State.synchronised State.platformMoves
  repeat' split
  all_goals simp
@[simp] theorem State.sampled_rnmi (s : State) (p : PlatIn) : (s.sampled p).rnmi = s.rnmi := by
  simp only [State.sampled, State.setCtr_rnmi, State.setInputs_rnmi]
  unfold State.requested State.synchronised State.platformMoves
  repeat' split
  all_goals simp
@[simp] theorem State.sampled_units (s : State) (p : PlatIn) : (s.sampled p).units = s.units := by
  simp only [State.sampled, State.setCtr_units, State.setInputs_units]
  unfold State.requested State.synchronised State.platformMoves
  repeat' split
  all_goals simp
@[simp] theorem State.sampled_pmp (s : State) (p : PlatIn) : (s.sampled p).pmp = s.pmp := by
  simp only [State.sampled, State.setCtr_pmp, State.setInputs_pmp]
  unfold State.requested State.synchronised State.platformMoves
  repeat' split
  all_goals simp
@[simp] theorem State.sampled_wait (s : State) (p : PlatIn) : (s.sampled p).wait = s.wait := by
  simp only [State.sampled, State.setCtr_wait, State.setInputs_wait]
  unfold State.requested State.synchronised State.platformMoves
  repeat' split
  all_goals simp
@[simp] theorem State.sampled_criticalError (s : State) (p : PlatIn) : (s.sampled p).criticalError = s.criticalError := by
  simp only [State.sampled, State.setCtr_criticalError, State.setInputs_criticalError]
  unfold State.requested State.synchronised State.platformMoves
  repeat' split
  all_goals simp
@[simp] theorem State.sampled_reservation (s : State) (p : PlatIn) : (s.sampled p).reservation = s.reservation := by
  simp only [State.sampled, State.setCtr_reservation, State.setInputs_reservation]
  unfold State.requested State.synchronised State.platformMoves
  repeat' split
  all_goals simp
@[simp] theorem State.sampled_elp (s : State) (p : PlatIn) : (s.sampled p).elp = s.elp := by
  simp only [State.sampled, State.setCtr_elp, State.setInputs_elp]
  unfold State.requested State.synchronised State.platformMoves
  repeat' split
  all_goals simp

/-- Of the machine-level registers the platform's part of a step changes `mip.SSIP` and the writable platform bits of `mip`
alone. -/
theorem State.sampled_csr (s : State) (p : PlatIn) :
    ∃ b m, (s.sampled p).csr = { s.csr with ssip := b, platSw := m } := by
  simp only [State.sampled, State.setCtr_csr, State.setInputs_csr]
  unfold State.requested State.synchronised State.platformMoves
  repeat' split
  all_goals simp only [State.setCsr_csr, State.setPlat_csr, State.physWriteAll_csr]
  all_goals first
    | exact ⟨_, _, rfl⟩
    | exact ⟨s.csr.ssip, s.csr.platSw, rfl⟩

/-- The platform's part of a step keeps memory canonical. -/
theorem State.sampled_wf (s : State) (p : PlatIn) (h : Memory.wf s.mem = true) :
    Memory.wf (s.sampled p).mem = true := by
  have e : (s.sampled p).mem = (s.physWriteAll p.stores).mem := by
    simp only [State.sampled, State.setCtr_mem, State.setInputs_mem]
    unfold State.requested State.synchronised State.platformMoves
    repeat' split
    all_goals simp
  rw [e]
  exact s.physWriteAll_wf _ h

@[simp] theorem State.sampled_ctr (s : State) (p : PlatIn) : (s.sampled p).ctr = s.ctr + 1 := rfl

@[simp] theorem State.sampled_inputs (s : State) (p : PlatIn) : (s.sampled p).inputs = s.inputs.tail := rfl

end Sys2Proof.Machine
end

