-- ==== Sys2Proof/Laws/Encoding.lean ====
section
/-! SUPPORT. The fields of the words the encoder writes (30_encoding.md R335, R337). -/

namespace Sys2Proof

/-- A field that lies in the upper part of an appended word. -/
theorem extract_append_high {n m : Nat} (a : BitVec n) (b : BitVec m) (i k : Nat) (h : m ≤ i) :
    (a ++ b).extractLsb' i k = a.extractLsb' (i - m) k := by
  apply BitVec.eq_of_getLsbD_eq
  intro j hj
  simp only [BitVec.getLsbD_extractLsb', BitVec.getLsbD_append, hj, decide_true, Bool.true_and]
  rw [if_neg (by omega), show i + j - m = i - m + j by omega]

/-- A field that lies in the lower part of an appended word. -/
theorem extract_append_low {n m : Nat} (a : BitVec n) (b : BitVec m) (i k : Nat) (h : i + k ≤ m) :
    (a ++ b).extractLsb' i k = b.extractLsb' i k := by
  apply BitVec.eq_of_getLsbD_eq
  intro j hj
  simp only [BitVec.getLsbD_extractLsb', BitVec.getLsbD_append, hj, decide_true, Bool.true_and]
  rw [if_pos (by omega)]

/-- A whole word as a field of itself. -/
theorem extract_self {n : Nat} (a : BitVec n) : a.extractLsb' 0 n = a := by
  apply BitVec.eq_of_getLsbD_eq
  intro j hj
  simp [BitVec.getLsbD_extractLsb', hj]

@[simp] theorem opcodeOf_encodeI (imm : BitVec 12) (rs1 : BitVec 5) (f3 : BitVec 3) (rd : BitVec 5) :
    opcodeOf (encodeI imm rs1 f3 rd) = systemOpcode :=
  (extract_append_low _ _ 0 7 (by decide)).trans (extract_self _)

@[simp] theorem rdOf_encodeI (imm : BitVec 12) (rs1 : BitVec 5) (f3 : BitVec 3) (rd : BitVec 5) :
    rdOf (encodeI imm rs1 f3 rd) = rd :=
  (extract_append_high _ _ 7 5 (by decide)).trans ((extract_append_low _ _ 0 5 (by decide)).trans (extract_self _))

@[simp] theorem funct3Of_encodeI (imm : BitVec 12) (rs1 : BitVec 5) (f3 : BitVec 3) (rd : BitVec 5) :
    funct3Of (encodeI imm rs1 f3 rd) = f3 :=
  (extract_append_high _ _ 12 3 (by decide)).trans ((extract_append_high _ _ 5 3 (by decide)).trans ((extract_append_low _ _ 0 3 (by decide)).trans (extract_self _)))

@[simp] theorem rs1Of_encodeI (imm : BitVec 12) (rs1 : BitVec 5) (f3 : BitVec 3) (rd : BitVec 5) :
    rs1Of (encodeI imm rs1 f3 rd) = rs1 :=
  (extract_append_high _ _ 15 5 (by decide)).trans ((extract_append_high _ _ 8 5 (by decide)).trans ((extract_append_high _ _ 3 5 (by decide)).trans ((extract_append_low _ _ 0 5 (by decide)).trans (extract_self _))))

@[simp] theorem csrOf_encodeI (imm : BitVec 12) (rs1 : BitVec 5) (f3 : BitVec 3) (rd : BitVec 5) :
    csrOf (encodeI imm rs1 f3 rd) = imm :=
  (extract_append_high _ _ 20 12 (by decide)).trans ((extract_append_high _ _ 13 12 (by decide)).trans ((extract_append_high _ _ 8 12 (by decide)).trans ((extract_append_high _ _ 5 12 (by decide)).trans (extract_self _))))

@[simp] theorem opcodeOf_encodeR (f7 : BitVec 7) (rs2 rs1 : BitVec 5) :
    opcodeOf (encodeR f7 rs2 rs1) = systemOpcode :=
  (extract_append_low _ _ 0 7 (by decide)).trans (extract_self _)

@[simp] theorem rdOf_encodeR (f7 : BitVec 7) (rs2 rs1 : BitVec 5) :
    rdOf (encodeR f7 rs2 rs1) = 0 :=
  (extract_append_high _ _ 7 5 (by decide)).trans ((extract_append_low _ _ 0 5 (by decide)).trans (extract_self _))

@[simp] theorem funct3Of_encodeR (f7 : BitVec 7) (rs2 rs1 : BitVec 5) :
    funct3Of (encodeR f7 rs2 rs1) = 0 :=
  (extract_append_high _ _ 12 3 (by decide)).trans ((extract_append_high _ _ 5 3 (by decide)).trans ((extract_append_low _ _ 0 3 (by decide)).trans (extract_self _)))

@[simp] theorem rs1Of_encodeR (f7 : BitVec 7) (rs2 rs1 : BitVec 5) :
    rs1Of (encodeR f7 rs2 rs1) = rs1 :=
  (extract_append_high _ _ 15 5 (by decide)).trans ((extract_append_high _ _ 8 5 (by decide)).trans ((extract_append_high _ _ 3 5 (by decide)).trans ((extract_append_low _ _ 0 5 (by decide)).trans (extract_self _))))

@[simp] theorem rs2Of_encodeR (f7 : BitVec 7) (rs2 rs1 : BitVec 5) :
    rs2Of (encodeR f7 rs2 rs1) = rs2 :=
  (extract_append_high _ _ 20 5 (by decide)).trans ((extract_append_high _ _ 13 5 (by decide)).trans ((extract_append_high _ _ 8 5 (by decide)).trans ((extract_append_high _ _ 5 5 (by decide)).trans ((extract_append_low _ _ 0 5 (by decide)).trans (extract_self _)))))

@[simp] theorem funct7Of_encodeR (f7 : BitVec 7) (rs2 rs1 : BitVec 5) :
    funct7Of (encodeR f7 rs2 rs1) = f7 :=
  (extract_append_high _ _ 25 7 (by decide)).trans ((extract_append_high _ _ 18 7 (by decide)).trans ((extract_append_high _ _ 13 7 (by decide)).trans ((extract_append_high _ _ 10 7 (by decide)).trans ((extract_append_high _ _ 5 7 (by decide)).trans (extract_self _)))))

@[simp] theorem opcodeOf_encodeCustom (f6 : BitVec 6) (hi : BitVec 11) (lo : BitVec 5) :
    opcodeOf (encodeCustom f6 hi lo) = systemOpcode :=
  (extract_append_low _ _ 0 7 (by decide)).trans (extract_self _)

@[simp] theorem rdOf_encodeCustom (f6 : BitVec 6) (hi : BitVec 11) (lo : BitVec 5) :
    rdOf (encodeCustom f6 hi lo) = lo :=
  (extract_append_high _ _ 7 5 (by decide)).trans ((extract_append_low _ _ 0 5 (by decide)).trans (extract_self _))

@[simp] theorem funct3Of_encodeCustom (f6 : BitVec 6) (hi : BitVec 11) (lo : BitVec 5) :
    funct3Of (encodeCustom f6 hi lo) = 0 :=
  (extract_append_high _ _ 12 3 (by decide)).trans ((extract_append_high _ _ 5 3 (by decide)).trans ((extract_append_low _ _ 0 3 (by decide)).trans (extract_self _)))

@[simp] theorem customHiOf_encodeCustom (f6 : BitVec 6) (hi : BitVec 11) (lo : BitVec 5) :
    customHiOf (encodeCustom f6 hi lo) = hi :=
  (extract_append_high _ _ 15 11 (by decide)).trans ((extract_append_high _ _ 8 11 (by decide)).trans ((extract_append_high _ _ 3 11 (by decide)).trans ((extract_append_low _ _ 0 11 (by decide)).trans (extract_self _))))

@[simp] theorem funct6Of_encodeCustom (f6 : BitVec 6) (hi : BitVec 11) (lo : BitVec 5) :
    funct6Of (encodeCustom f6 hi lo) = f6 :=
  (extract_append_high _ _ 26 6 (by decide)).trans ((extract_append_high _ _ 19 6 (by decide)).trans ((extract_append_high _ _ 14 6 (by decide)).trans ((extract_append_high _ _ 11 6 (by decide)).trans (extract_self _))))

end Sys2Proof
end

