-- ==== Sys2Proof/Laws/PerInstr.lean ====
section
/-! SUPPORT. Statements about every instruction as syntax, one lemma per constructor. -/

namespace Sys2Proof.Laws.EncodingShape

/-- A 32-bit instruction has the SYSTEM major opcode, a 16-bit one does not (30_encoding.md R330, R331). -/
def Statement (i : Instr) : Prop := opcodeOf (encode i) = systemOpcode ↔ i.size = 4

theorem csrrw (rd : BitVec 5) (rs1 : BitVec 5) (csr : BitVec 12) : Statement (.csrrw rd rs1 csr) := iff_of_true (opcodeOf_encodeI _ _ _ _) rfl

theorem csrrs (rd : BitVec 5) (rs1 : BitVec 5) (csr : BitVec 12) : Statement (.csrrs rd rs1 csr) := iff_of_true (opcodeOf_encodeI _ _ _ _) rfl

theorem csrrc (rd : BitVec 5) (rs1 : BitVec 5) (csr : BitVec 12) : Statement (.csrrc rd rs1 csr) := iff_of_true (opcodeOf_encodeI _ _ _ _) rfl

theorem csrrwi (rd : BitVec 5) (uimm : BitVec 5) (csr : BitVec 12) : Statement (.csrrwi rd uimm csr) := iff_of_true (opcodeOf_encodeI _ _ _ _) rfl

theorem csrrsi (rd : BitVec 5) (uimm : BitVec 5) (csr : BitVec 12) : Statement (.csrrsi rd uimm csr) := iff_of_true (opcodeOf_encodeI _ _ _ _) rfl

theorem csrrci (rd : BitVec 5) (uimm : BitVec 5) (csr : BitVec 12) : Statement (.csrrci rd uimm csr) := iff_of_true (opcodeOf_encodeI _ _ _ _) rfl

theorem ecall : Statement .ecall := iff_of_true (opcodeOf_encodeI _ _ _ _) rfl

theorem ebreak : Statement .ebreak := iff_of_true (opcodeOf_encodeI _ _ _ _) rfl

theorem sret : Statement .sret := iff_of_true (opcodeOf_encodeI _ _ _ _) rfl

theorem mret : Statement .mret := iff_of_true (opcodeOf_encodeI _ _ _ _) rfl

theorem mnret : Statement .mnret := iff_of_true (opcodeOf_encodeI _ _ _ _) rfl

theorem wfi : Statement .wfi := iff_of_true (opcodeOf_encodeI _ _ _ _) rfl

theorem sfenceVma (rs1 : BitVec 5) (rs2 : BitVec 5) : Statement (.sfenceVma rs1 rs2) := iff_of_true (opcodeOf_encodeR _ _ _) rfl

theorem sinvalVma (rs1 : BitVec 5) (rs2 : BitVec 5) : Statement (.sinvalVma rs1 rs2) := iff_of_true (opcodeOf_encodeR _ _ _) rfl

theorem custom100011 (hi : BitVec 11) (lo : BitVec 5) : Statement (.custom100011 hi lo) := iff_of_true (opcodeOf_encodeCustom _ _ _) rfl

theorem custom110011 (hi : BitVec 11) (lo : BitVec 5) : Statement (.custom110011 hi lo) := iff_of_true (opcodeOf_encodeCustom _ _ _) rfl

theorem custom100111 (hi : BitVec 11) (lo : BitVec 5) : Statement (.custom100111 hi lo) := iff_of_true (opcodeOf_encodeCustom _ _ _) rfl

theorem custom110111 (hi : BitVec 11) (lo : BitVec 5) : Statement (.custom110111 hi lo) := iff_of_true (opcodeOf_encodeCustom _ _ _) rfl

theorem custom101011 (hi : BitVec 11) (lo : BitVec 5) : Statement (.custom101011 hi lo) := iff_of_true (opcodeOf_encodeCustom _ _ _) rfl

theorem custom111011 (hi : BitVec 11) (lo : BitVec 5) : Statement (.custom111011 hi lo) := iff_of_true (opcodeOf_encodeCustom _ _ _) rfl

theorem custom101111 (hi : BitVec 11) (lo : BitVec 5) : Statement (.custom101111 hi lo) := iff_of_true (opcodeOf_encodeCustom _ _ _) rfl

theorem custom111111 (hi : BitVec 11) (lo : BitVec 5) : Statement (.custom111111 hi lo) := iff_of_true (opcodeOf_encodeCustom _ _ _) rfl

theorem cEbreak : Statement .cEbreak := by
  unfold Statement
  decide

end Sys2Proof.Laws.EncodingShape
end

