-- ==== Sys2Proof/Laws/Step.lean ====
section
/-! SUPPORT. The cases of one step: what the hart's part can be, said once, for the invariants of every step. -/

namespace Sys2Proof.Machine

/-- Everything that the hart's part of a step which answers a next state can be: a reset, an idle critical-error step, an
NMI, the stalled hart, an interrupt, or an instruction (60_exceptions.md R510). -/
inductive StepCase (s : State) (p : PlatIn) (t : State) : Prop where
  | reset (c : Nat) (h : p.reset = some c) (e : t = s.restarted c)
  | critical (h : s.criticalError = true) (e : t = s.criticalStep)
  | nmi (h : s.nmiTaken p = true) (e : t = s.takeNmi)
  | idle (h : s.wait.stalled = true) (e : t = s.idle)
  | complete (h : s.wait.stalled = true) (e : t = s.completeLimited)
  | interrupt (u : State) (hu : u = s ∨ u = s.setWait .running) (toS : Bool) (i : Nat)
      (h : u.pendingInterrupt = some (toS, i)) (e : t = u.takeInterrupt toS i)
  | exception (u : State) (hu : u = s ∨ u = s.setWait .running) (c : Nat) (v : Word) (e : t = u.raise c v)
  | instruction (u : State) (hu : u = s ∨ u = s.setWait .running) (i : Instr) (h : exec i u = .next t)
  | base (u : State) (hu : u = s ∨ u = s.setWait .running) (w : BitVec 32) (h : u.baseExec w = .next t)

theorem State.fetchAndRun_cases (s u t : State) (p : PlatIn) (hu : u = s ∨ u = s.setWait .running)
    (h : u.fetchAndRun p.hwError = .next t) : StepCase s p t := by
  unfold State.fetchAndRun at h
  split at h
  · split at h
    · unfold State.runFetched at h
      split at h
      · unfold State.runWord at h
        split at h
        · exact .instruction u hu _ h
        · exact .base u hu _ h
      · unfold State.runLong State.onAccess at h
        split at h
        · cases h; exact .exception u hu 2 _ rfl
        · rename_i hf
          cases h
          rw [u.fetchTail_exc _ _ _ _ hf]
          exact .exception u hu _ _ rfl
        · cases h
    · cases h; exact .exception u hu 19 _ rfl
  · rename_i hf
    cases h
    rw [u.fetch_exc _ _ _ hf]
    exact .exception u hu _ _ rfl
  · cases h

/-- An instruction of the opcode table is not longer than 32 bits: it runs as it was fetched. -/
theorem State.runFetched_decoded (s : State) (w : BitVec 32) (i : Instr) (h : decodeWord w = .ok i) :
    s.runFetched w = exec i s := by
  have hl : w.extractLsb' 0 6 ≠ 0b011111#6 ∧ w.extractLsb' 0 6 ≠ 0b111111#6 := by
    unfold decodeWord at h
    split at h
    · rename_i hc; subst hc; decide
    · by_cases ho : opcodeOf w = systemOpcode
      · have e : w.extractLsb' 0 6 = (opcodeOf w).extractLsb' 0 6 := by
          ext j hj; simp [opcodeOf, Nat.lt_succ_of_lt hj]
        rw [e, ho]; decide
      · rw [if_neg ho] at h; cases h
  have ht : s.tailBytes w = 0 := by
    simp only [State.tailBytes, hl.1, hl.2, if_false]
    have : min (min 32 s.cfg.ilen) s.cfg.mxlen.bits - 32 = 0 := by omega
    rw [this]
  simp only [State.runFetched, ht, if_true, State.runWord, h]

theorem State.interruptOrRun_cases (s u t : State) (p : PlatIn) (hu : u = s ∨ u = s.setWait .running)
    (h : u.interruptOrRun p = .next t) : StepCase s p t := by
  unfold State.interruptOrRun at h
  split at h
  · rename_i hp
    cases h
    exact .interrupt u hu _ _ hp rfl
  · exact s.fetchAndRun_cases u t p hu h

/-- The cases of the hart's part of a step. -/
theorem State.hartStep_cases (s t : State) (p : PlatIn) (h : s.hartStep p = .next t) : StepCase s p t := by
  unfold State.hartStep at h
  split at h
  · rename_i hr
    cases h; exact .reset _ hr rfl
  · split at h
    · rename_i hc
      cases h; exact .critical hc rfl
    · split at h
      · rename_i hn
        cases h; exact .nmi hn rfl
      · unfold State.awake at h
        split at h
        · exact s.interruptOrRun_cases s t p (.inl rfl) h
        · rename_i hw
          have hw' : s.wait.stalled = true := by simpa using hw
          split at h
          · cases h; exact .idle hw' rfl
          · split at h
            · cases h; exact .complete hw' rfl
            · exact s.interruptOrRun_cases _ t p (.inr rfl) h

/-- The cases of one step: the platform's part, then the hart's. -/
theorem step_cases (s t : State) (h : step s = .next t) : StepCase (s.sampled s.input) s.input t :=
  State.hartStep_cases _ _ _ h

/-- What one instruction of the opcode table can do when it answers a next state. -/
inductive ExecCase (s : State) (t : State) : Prop where
  | raised (c : Nat) (v : Word) (e : t = s.raise c v)
  | csr (u : CsrUse) (n : CsrName) (hn : s.csrAt u.csr = some n) (ha : s.csrAllowed n u.csr u.writes = true)
      (e : t = s.csrPerform u n)
  | mret (h : s.priv = .m) (e : t = s.returnM)
  | sret (h : s.hasS = true) (hi : s.sretIllegal = false) (e : t = s.returnS)
  | mnret (h : s.priv = .m) (hs : s.cfg.ext.smrnmi = true) (e : t = s.returnRnmi)
  | retired (e : t = s.retire 4)
  | waiting (w : Wait) (e : t = (s.retire 4).setWait w)
  | limited (w : Wait) (e : t = s.countIdle.setWait w)
  | customRaised (cs : List (Nat × Byte)) (c : Nat) (v : Word) (e : t = (s.physWriteAll cs).raise c v)
  | customRetired (cs : List (Nat × Byte)) (f : CustomEffect) (e : t = (s.physWriteAll cs).customRetire f)

theorem State.illegal_case (s : State) (w : BitVec 32) : ExecCase s (s.illegal w) := .raised 2 _ rfl

theorem State.csrInstr_cases (s : State) (u : CsrUse) (w : BitVec 32) : ExecCase s (s.csrInstr u w) := by
  unfold State.csrInstr
  split
  · exact s.illegal_case w
  · split
    · rename_i n hn ha
      exact .csr u n hn ha rfl
    · exact s.illegal_case w

theorem State.unlessReserved_cases (s t : State) (i : Instr) (h : i.wellFormed s.features = true → ExecCase s t) :
    ExecCase s (s.unlessReserved i t) := by
  unfold State.unlessReserved
  split
  · rename_i hi; exact h hi
  · exact s.illegal_case _

theorem State.physWriteAll_append (s : State) (cs ds : List (Nat × Byte)) :
    (s.physWriteAll cs).physWriteAll ds = s.physWriteAll (cs ++ ds) := by
  induction cs generalizing s with
  | nil => rfl
  | cons c cs ih => exact ih _

/-- Stores in order write bytes, also where one of them raises. -/
theorem State.storeEach_cases (s : State) (l : List (Word × Fin 4 × Word)) :
    (∀ t, s.storeEach l = .ok t → ∃ cs, t = s.physWriteAll cs) ∧
      (∀ t c v, s.storeEach l = .exc t c v → ∃ cs, t = s.physWriteAll cs) := by
  induction l generalizing s with
  | nil => exact ⟨fun t h => by cases h; exact ⟨[], rfl⟩, fun t c v h => by cases h⟩
  | cons x l ih =>
    obtain ⟨ea, k, v⟩ := x
    simp only [State.storeEach]
    cases hw : s.memWrite ea (2 ^ k.val) v .plain with
    | ok u =>
      obtain ⟨hok, hexc⟩ := ih u
      have hu := s.memWrite_ok _ _ _ _ _ hw
      refine ⟨fun t h => ?_, fun t c w h => ?_⟩
      · obtain ⟨cs, e⟩ := hok t h
        exact ⟨_, by rw [e, hu, State.physWriteAll_append]⟩
      · obtain ⟨cs, e⟩ := hexc t c w h
        exact ⟨_, by rw [e, hu, State.physWriteAll_append]⟩
    | exc u c w =>
      refine ⟨fun t h => (nomatch h), fun t c' w' h => ?_⟩
      cases h
      exact s.memWrite_exc _ _ _ _ _ _ _ hw
    | stop g => exact ⟨fun t h => (nomatch h), fun t c w h => (nomatch h)⟩

/-- The stores of a custom instruction write bytes; where one raises and is no access fault, none is written
(60_exceptions.md R454). -/
theorem State.customStores_cases (s : State) (l : List (Word × Fin 4 × Word)) :
    (∀ t, s.customStores l = .ok t → ∃ cs, t = s.physWriteAll cs) ∧
      (∀ t c v, s.customStores l = .exc t c v → (∃ cs, t = s.physWriteAll cs) ∧ (c ≠ 7 → t = s)) := by
  obtain ⟨hok, hexc⟩ := s.storeEach_cases l
  unfold State.customStores
  refine ⟨fun t h => ?_, fun t c v h => ?_⟩
  · split at h
    · cases h
    · exact hok t h
  · split at h
    · rename_i u c' v' hu
      cases h
      refine ⟨?_, fun hc => by simp [hc]⟩
      split
      · exact hexc _ _ _ hu
      · exact ⟨[], rfl⟩
    · rename_i hn
      exact absurd h (hn _ _ _)

theorem State.loadEach_cases (s : State) (l : List (Word × Fin 4)) :
    (∀ t, s.loadEach l = .ok t → t = s) ∧ (∀ t c v, s.loadEach l = .exc t c v → t = s) := by
  induction l with
  | nil => exact ⟨fun t h => by cases h; rfl, fun t c v h => by cases h⟩
  | cons x l ih =>
    obtain ⟨ea, k⟩ := x
    simp only [State.loadEach]
    cases hr : s.memRead ea (2 ^ k.val) .plain with
    | ok u => exact ih
    | exc u c v =>
      refine ⟨fun t h => (by cases h), fun t c' v' h => ?_⟩
      cases h
      exact s.memRead_exc _ _ _ _ _ _ hr
    | stop g => exact ⟨fun t h => (by cases h), fun t c v h => (by cases h)⟩

/-- A custom instruction's accesses write memory, and under any exception but an access fault of a store they change nothing. -/
theorem State.customAccesses_cases (s : State) (e : CustomEffect) :
    (∀ t, s.customAccesses e = .ok t → ∃ cs, t = s.physWriteAll cs) ∧
      (∀ t c v, s.customAccesses e = .exc t c v → (∃ cs, t = s.physWriteAll cs) ∧ (c ≠ 7 → t = s)) := by
  obtain ⟨hok, hexc⟩ := s.loadEach_cases e.loads
  unfold State.customAccesses
  cases hl : s.loadEach e.loads with
  | ok u => rw [hok u hl]; exact s.customStores_cases e.stores
  | exc u c v =>
    refine ⟨fun t h => (by cases h), fun t c' v' h => ?_⟩
    cases h
    rw [hexc _ _ _ hl]
    exact ⟨⟨[], rfl⟩, fun _ => rfl⟩
  | stop g => exact ⟨fun t h => (by cases h), fun t c v h => (by cases h)⟩

/-- The cases of a custom instruction. -/
theorem State.custom_cases (s t : State) (i : Instr) (h : s.custom i = .next t) : ExecCase s t := by
  unfold State.custom at h
  split at h
  · split at h
    · cases h; exact s.illegal_case _
    · cases h; exact .raised _ _ rfl
    · rename_i f _
      split at h
      · unfold State.onAccess at h
        split at h
        · rename_i u hu
          obtain ⟨cs, e⟩ := (s.customAccesses_cases _).1 u hu
          cases h
          exact .customRetired cs f (by rw [e])
        · rename_i u c v hu
          obtain ⟨⟨cs, e⟩, _⟩ := (s.customAccesses_cases _).2 u c v hu
          cases h
          exact .customRaised cs c v (by rw [e])
        · cases h
      · cases h; exact s.illegal_case _
  · cases h; exact s.illegal_case _

/-- The cases of `exec`. -/
theorem exec_cases (i : Instr) (s t : State) (h : exec i s = .next t) : ExecCase s t := by
  cases i with
  | csrrw rd rs1 csr => cases h; exact s.unlessReserved_cases _ _ (fun _ => s.csrInstr_cases _ _)
  | csrrs rd rs1 csr => cases h; exact s.unlessReserved_cases _ _ (fun _ => s.csrInstr_cases _ _)
  | csrrc rd rs1 csr => cases h; exact s.unlessReserved_cases _ _ (fun _ => s.csrInstr_cases _ _)
  | csrrwi rd uimm csr => cases h; exact s.unlessReserved_cases _ _ (fun _ => s.csrInstr_cases _ _)
  | csrrsi rd uimm csr => cases h; exact s.unlessReserved_cases _ _ (fun _ => s.csrInstr_cases _ _)
  | csrrci rd uimm csr => cases h; exact s.unlessReserved_cases _ _ (fun _ => s.csrInstr_cases _ _)
  | ecall => cases h; exact .raised _ _ rfl
  | ebreak => cases h; exact .raised _ _ rfl
  | cEbreak => cases h; exact s.unlessReserved_cases _ _ (fun _ => .raised _ _ rfl)
  | mret =>
    cases h
    split
    · rename_i hp; exact .mret hp rfl
    · exact s.illegal_case _
  | sret =>
    cases h
    refine s.unlessReserved_cases _ _ (fun hw => ?_)
    split
    · exact s.illegal_case _
    · rename_i hi; exact .sret hw (by simpa using hi) rfl
  | mnret =>
    cases h
    refine s.unlessReserved_cases _ _ (fun hw => ?_)
    split
    · rename_i hp; exact .mnret hp hw rfl
    · exact s.illegal_case _
  | wfi =>
    cases h
    split
    · exact s.illegal_case _
    · split
      · unfold State.wfiLimited
        split
        · exact s.illegal_case _
        · split
          · exact .limited _ rfl
          · exact .waiting _ rfl
      · exact .waiting _ rfl
  | sfenceVma rs1 rs2 =>
    cases h
    refine s.unlessReserved_cases _ _ (fun _ => ?_)
    split
    · exact s.illegal_case _
    · exact .retired rfl
  | sinvalVma rs1 rs2 =>
    cases h
    refine s.unlessReserved_cases _ _ (fun _ => ?_)
    split
    · exact s.illegal_case _
    · exact .retired rfl
  | custom100011 hi lo | custom110011 hi lo | custom100111 hi lo | custom110111 hi lo | custom101011 hi lo
  | custom111011 hi lo | custom101111 hi lo | custom111111 hi lo =>
    exact s.custom_cases t _ h

/-! ### What a custom instruction that retires leaves alone -/

/-- Every CSR write of a custom instruction is one that a CSR instruction could make. -/
theorem State.customCsrs_mem (s : State) (e : CustomEffect) (n : CsrName) (v : Word) (h : (n, v) ∈ s.customCsrs e) :
    ∃ a, s.csrAt a = some n ∧ s.csrAllowed n a true = true := by
  have h' : (n, v) ∈ e.csrs.filterMap s.customCsr := by
    simp only [State.customCsrs, List.mem_append, List.mem_filter] at h
    exact h.elim (·.1) (·.1)
  obtain ⟨⟨a, w⟩, _, hp⟩ := List.mem_filterMap.mp h'
  unfold State.customCsr at hp
  split at hp
  · rename_i m hm
    split at hp
    · rename_i ha
      cases hp
      exact ⟨a, hm, ha⟩
    · cases hp
  · cases hp

/-- What each of some CSR writes keeps, the writes in order keep. -/
theorem State.customCsrWrites_keep (P : State → Prop) (s : State) (l : List (CsrName × Word)) (hs : P s)
    (h : ∀ t n v, (n, v) ∈ l → P t → P (t.csrWrite v n)) : P (s.customCsrWrites l) := by
  induction l generalizing s with
  | nil => exact hs
  | cons a l ih =>
    exact ih _ (h s a.1 a.2 (List.mem_cons_self ..) hs) (fun t n v hm => h t n v (List.mem_cons_of_mem _ hm))

@[simp] theorem State.customCsrWrites_cfg (s : State) (l : List (CsrName × Word)) :
    (s.customCsrWrites l).cfg = s.cfg := by
  induction l generalizing s with
  | nil => rfl
  | cons a l ih => simp [State.customCsrWrites, ih]
@[simp] theorem State.customCsrWrites_priv (s : State) (l : List (CsrName × Word)) :
    (s.customCsrWrites l).priv = s.priv := by
  induction l generalizing s with
  | nil => rfl
  | cons a l ih => simp [State.customCsrWrites, ih]
@[simp] theorem State.customCsrWrites_pc (s : State) (l : List (CsrName × Word)) :
    (s.customCsrWrites l).pc = s.pc := by
  induction l generalizing s with
  | nil => rfl
  | cons a l ih => simp [State.customCsrWrites, ih]
@[simp] theorem State.customCsrWrites_wait (s : State) (l : List (CsrName × Word)) :
    (s.customCsrWrites l).wait = s.wait := by
  induction l generalizing s with
  | nil => rfl
  | cons a l ih => simp [State.customCsrWrites, ih]
@[simp] theorem State.customCsrWrites_criticalError (s : State) (l : List (CsrName × Word)) :
    (s.customCsrWrites l).criticalError = s.criticalError := by
  induction l generalizing s with
  | nil => rfl
  | cons a l ih => simp [State.customCsrWrites, ih]
@[simp] theorem State.customCsrWrites_plat (s : State) (l : List (CsrName × Word)) :
    (s.customCsrWrites l).plat = s.plat := by
  induction l generalizing s with
  | nil => rfl
  | cons a l ih => simp [State.customCsrWrites, ih]
@[simp] theorem State.customCsrWrites_inputs (s : State) (l : List (CsrName × Word)) :
    (s.customCsrWrites l).inputs = s.inputs := by
  induction l generalizing s with
  | nil => rfl
  | cons a l ih => simp [State.customCsrWrites, ih]
@[simp] theorem State.customCsrWrites_mem (s : State) (l : List (CsrName × Word)) :
    (s.customCsrWrites l).mem = s.mem := by
  induction l generalizing s with
  | nil => rfl
  | cons a l ih => simp [State.customCsrWrites, ih]
@[simp] theorem State.customCsrWrites_ctr (s : State) (l : List (CsrName × Word)) :
    (s.customCsrWrites l).ctr = s.ctr := by
  induction l generalizing s with
  | nil => rfl
  | cons a l ih => simp [State.customCsrWrites, ih]
/-- A custom instruction's CSR writes keep `ELP` or clear it. -/
theorem State.customCsrWrites_elp (s : State) (l : List (CsrName × Word)) :
    (s.customCsrWrites l).elp = s.elp ∨ (s.customCsrWrites l).elp = false :=
  s.customCsrWrites_keep (fun t => t.elp = s.elp ∨ t.elp = false) l (.inl rfl) (fun t n v _ ht => by
    rcases t.csrWrite_elp v n with e | ⟨_, e⟩
    · rw [e]; exact ht
    · exact .inr e)
/-- Actions on units change `FS`, `VS` and the status of additional extensions alone. -/
theorem State.unitSteps_cases (s : State) (l : List (StateUnit × UnitAction)) :
    ∃ fs vs st, s.unitSteps l =
      (s.setMstatus { s.csr.mstatus with fs := fs, vs := vs }).setUnits { s.units with statuses := st } := by
  induction l generalizing s with
  | nil => exact ⟨_, _, _, rfl⟩
  | cons p l ih =>
    obtain ⟨fs, vs, st, e⟩ := ih (s.unitStep p)
    obtain ⟨u, a⟩ := p
    cases u <;> exact ⟨fs, vs, st, e⟩
@[simp] theorem State.unitSteps_cfg (s : State) (l : List (StateUnit × UnitAction)) : (s.unitSteps l).cfg = s.cfg := by
  obtain ⟨_, _, _, e⟩ := s.unitSteps_cases l
  rw [e]; rfl
@[simp] theorem State.unitSteps_priv (s : State) (l : List (StateUnit × UnitAction)) : (s.unitSteps l).priv = s.priv := by
  obtain ⟨_, _, _, e⟩ := s.unitSteps_cases l
  rw [e]; rfl
@[simp] theorem State.unitSteps_pc (s : State) (l : List (StateUnit × UnitAction)) : (s.unitSteps l).pc = s.pc := by
  obtain ⟨_, _, _, e⟩ := s.unitSteps_cases l
  rw [e]; rfl
@[simp] theorem State.unitSteps_x (s : State) (l : List (StateUnit × UnitAction)) : (s.unitSteps l).x = s.x := by
  obtain ⟨_, _, _, e⟩ := s.unitSteps_cases l
  rw [e]; rfl
@[simp] theorem State.unitSteps_cnt (s : State) (l : List (StateUnit × UnitAction)) : (s.unitSteps l).cnt = s.cnt := by
  obtain ⟨_, _, _, e⟩ := s.unitSteps_cases l
  rw [e]; rfl
@[simp] theorem State.unitSteps_sup (s : State) (l : List (StateUnit × UnitAction)) : (s.unitSteps l).sup = s.sup := by
  obtain ⟨_, _, _, e⟩ := s.unitSteps_cases l
  rw [e]; rfl
@[simp] theorem State.unitSteps_rnmi (s : State) (l : List (StateUnit × UnitAction)) : (s.unitSteps l).rnmi = s.rnmi := by
  obtain ⟨_, _, _, e⟩ := s.unitSteps_cases l
  rw [e]; rfl
@[simp] theorem State.unitSteps_pmp (s : State) (l : List (StateUnit × UnitAction)) : (s.unitSteps l).pmp = s.pmp := by
  obtain ⟨_, _, _, e⟩ := s.unitSteps_cases l
  rw [e]; rfl
@[simp] theorem State.unitSteps_wait (s : State) (l : List (StateUnit × UnitAction)) : (s.unitSteps l).wait = s.wait := by
  obtain ⟨_, _, _, e⟩ := s.unitSteps_cases l
  rw [e]; rfl
@[simp] theorem State.unitSteps_criticalError (s : State) (l : List (StateUnit × UnitAction)) : (s.unitSteps l).criticalError = s.criticalError := by
  obtain ⟨_, _, _, e⟩ := s.unitSteps_cases l
  rw [e]; rfl
@[simp] theorem State.unitSteps_reservation (s : State) (l : List (StateUnit × UnitAction)) : (s.unitSteps l).reservation = s.reservation := by
  obtain ⟨_, _, _, e⟩ := s.unitSteps_cases l
  rw [e]; rfl
@[simp] theorem State.unitSteps_elp (s : State) (l : List (StateUnit × UnitAction)) : (s.unitSteps l).elp = s.elp := by
  obtain ⟨_, _, _, e⟩ := s.unitSteps_cases l
  rw [e]; rfl
@[simp] theorem State.unitSteps_plat (s : State) (l : List (StateUnit × UnitAction)) : (s.unitSteps l).plat = s.plat := by
  obtain ⟨_, _, _, e⟩ := s.unitSteps_cases l
  rw [e]; rfl
@[simp] theorem State.unitSteps_inputs (s : State) (l : List (StateUnit × UnitAction)) : (s.unitSteps l).inputs = s.inputs := by
  obtain ⟨_, _, _, e⟩ := s.unitSteps_cases l
  rw [e]; rfl
@[simp] theorem State.unitSteps_mem (s : State) (l : List (StateUnit × UnitAction)) : (s.unitSteps l).mem = s.mem := by
  obtain ⟨_, _, _, e⟩ := s.unitSteps_cases l
  rw [e]; rfl
@[simp] theorem State.unitSteps_ctr (s : State) (l : List (StateUnit × UnitAction)) : (s.unitSteps l).ctr = s.ctr := by
  obtain ⟨_, _, _, e⟩ := s.unitSteps_cases l
  rw [e]; rfl
@[simp] theorem State.customRegs_cfg (s : State) (l : List (BitVec 5 × Word)) : (s.customRegs l).cfg = s.cfg := by
  induction l generalizing s with
  | nil => rfl
  | cons a l ih => simp [State.customRegs, ih]
@[simp] theorem State.customRegs_priv (s : State) (l : List (BitVec 5 × Word)) : (s.customRegs l).priv = s.priv := by
  induction l generalizing s with
  | nil => rfl
  | cons a l ih => simp [State.customRegs, ih]
@[simp] theorem State.customRegs_pc (s : State) (l : List (BitVec 5 × Word)) : (s.customRegs l).pc = s.pc := by
  induction l generalizing s with
  | nil => rfl
  | cons a l ih => simp [State.customRegs, ih]
@[simp] theorem State.customRegs_csr (s : State) (l : List (BitVec 5 × Word)) : (s.customRegs l).csr = s.csr := by
  induction l generalizing s with
  | nil => rfl
  | cons a l ih => simp [State.customRegs, ih]
@[simp] theorem State.customRegs_cnt (s : State) (l : List (BitVec 5 × Word)) : (s.customRegs l).cnt = s.cnt := by
  induction l generalizing s with
  | nil => rfl
  | cons a l ih => simp [State.customRegs, ih]
@[simp] theorem State.customRegs_sup (s : State) (l : List (BitVec 5 × Word)) : (s.customRegs l).sup = s.sup := by
  induction l generalizing s with
  | nil => rfl
  | cons a l ih => simp [State.customRegs, ih]
@[simp] theorem State.customRegs_rnmi (s : State) (l : List (BitVec 5 × Word)) : (s.customRegs l).rnmi = s.rnmi := by
  induction l generalizing s with
  | nil => rfl
  | cons a l ih => simp [State.customRegs, ih]
@[simp] theorem State.customRegs_units (s : State) (l : List (BitVec 5 × Word)) : (s.customRegs l).units = s.units := by
  induction l generalizing s with
  | nil => rfl
  | cons a l ih => simp [State.customRegs, ih]
@[simp] theorem State.customRegs_pmp (s : State) (l : List (BitVec 5 × Word)) : (s.customRegs l).pmp = s.pmp := by
  induction l generalizing s with
  | nil => rfl
  | cons a l ih => simp [State.customRegs, ih]
@[simp] theorem State.customRegs_wait (s : State) (l : List (BitVec 5 × Word)) : (s.customRegs l).wait = s.wait := by
  induction l generalizing s with
  | nil => rfl
  | cons a l ih => simp [State.customRegs, ih]
@[simp] theorem State.customRegs_criticalError (s : State) (l : List (BitVec 5 × Word)) : (s.customRegs l).criticalError = s.criticalError := by
  induction l generalizing s with
  | nil => rfl
  | cons a l ih => simp [State.customRegs, ih]
@[simp] theorem State.customRegs_reservation (s : State) (l : List (BitVec 5 × Word)) : (s.customRegs l).reservation = s.reservation := by
  induction l generalizing s with
  | nil => rfl
  | cons a l ih => simp [State.customRegs, ih]
@[simp] theorem State.customRegs_elp (s : State) (l : List (BitVec 5 × Word)) : (s.customRegs l).elp = s.elp := by
  induction l generalizing s with
  | nil => rfl
  | cons a l ih => simp [State.customRegs, ih]
@[simp] theorem State.customRegs_plat (s : State) (l : List (BitVec 5 × Word)) : (s.customRegs l).plat = s.plat := by
  induction l generalizing s with
  | nil => rfl
  | cons a l ih => simp [State.customRegs, ih]
@[simp] theorem State.customRegs_inputs (s : State) (l : List (BitVec 5 × Word)) : (s.customRegs l).inputs = s.inputs := by
  induction l generalizing s with
  | nil => rfl
  | cons a l ih => simp [State.customRegs, ih]
@[simp] theorem State.customRegs_mem (s : State) (l : List (BitVec 5 × Word)) : (s.customRegs l).mem = s.mem := by
  induction l generalizing s with
  | nil => rfl
  | cons a l ih => simp [State.customRegs, ih]
@[simp] theorem State.customRegs_ctr (s : State) (l : List (BitVec 5 × Word)) : (s.customRegs l).ctr = s.ctr := by
  induction l generalizing s with
  | nil => rfl
  | cons a l ih => simp [State.customRegs, ih]
@[simp] theorem State.takeStatuses_cfg (s : State) (l : List (Nat × BitVec 2)) : (s.takeStatuses l).cfg = s.cfg := rfl
@[simp] theorem State.takeStatuses_priv (s : State) (l : List (Nat × BitVec 2)) : (s.takeStatuses l).priv = s.priv := rfl
@[simp] theorem State.takeStatuses_pc (s : State) (l : List (Nat × BitVec 2)) : (s.takeStatuses l).pc = s.pc := rfl
@[simp] theorem State.takeStatuses_x (s : State) (l : List (Nat × BitVec 2)) : (s.takeStatuses l).x = s.x := rfl
@[simp] theorem State.takeStatuses_csr (s : State) (l : List (Nat × BitVec 2)) : (s.takeStatuses l).csr = s.csr := rfl
@[simp] theorem State.takeStatuses_cnt (s : State) (l : List (Nat × BitVec 2)) : (s.takeStatuses l).cnt = s.cnt := rfl
@[simp] theorem State.takeStatuses_sup (s : State) (l : List (Nat × BitVec 2)) : (s.takeStatuses l).sup = s.sup := rfl
@[simp] theorem State.takeStatuses_rnmi (s : State) (l : List (Nat × BitVec 2)) : (s.takeStatuses l).rnmi = s.rnmi := rfl
@[simp] theorem State.takeStatuses_pmp (s : State) (l : List (Nat × BitVec 2)) : (s.takeStatuses l).pmp = s.pmp := rfl
@[simp] theorem State.takeStatuses_wait (s : State) (l : List (Nat × BitVec 2)) : (s.takeStatuses l).wait = s.wait := rfl
@[simp] theorem State.takeStatuses_criticalError (s : State) (l : List (Nat × BitVec 2)) : (s.takeStatuses l).criticalError = s.criticalError := rfl
@[simp] theorem State.takeStatuses_reservation (s : State) (l : List (Nat × BitVec 2)) : (s.takeStatuses l).reservation = s.reservation := rfl
@[simp] theorem State.takeStatuses_elp (s : State) (l : List (Nat × BitVec 2)) : (s.takeStatuses l).elp = s.elp := rfl
@[simp] theorem State.takeStatuses_plat (s : State) (l : List (Nat × BitVec 2)) : (s.takeStatuses l).plat = s.plat := rfl
@[simp] theorem State.takeStatuses_inputs (s : State) (l : List (Nat × BitVec 2)) : (s.takeStatuses l).inputs = s.inputs := rfl
@[simp] theorem State.takeStatuses_mem (s : State) (l : List (Nat × BitVec 2)) : (s.takeStatuses l).mem = s.mem := rfl
@[simp] theorem State.takeStatuses_ctr (s : State) (l : List (Nat × BitVec 2)) : (s.takeStatuses l).ctr = s.ctr := rfl
@[simp] theorem State.customRetire_cfg (s : State) (f : CustomEffect) : (s.customRetire f).cfg = s.cfg := by
  simp [State.customRetire]
@[simp] theorem State.customRetire_priv (s : State) (f : CustomEffect) : (s.customRetire f).priv = s.priv := by
  simp [State.customRetire]
@[simp] theorem State.customRetire_wait (s : State) (f : CustomEffect) : (s.customRetire f).wait = s.wait := by
  simp [State.customRetire]
@[simp] theorem State.customRetire_criticalError (s : State) (f : CustomEffect) : (s.customRetire f).criticalError = s.criticalError := by
  simp [State.customRetire]
@[simp] theorem State.customRetire_plat (s : State) (f : CustomEffect) : (s.customRetire f).plat = s.plat := by
  simp [State.customRetire]
@[simp] theorem State.customRetire_inputs (s : State) (f : CustomEffect) : (s.customRetire f).inputs = s.inputs := by
  simp [State.customRetire]
@[simp] theorem State.customRetire_mem (s : State) (f : CustomEffect) : (s.customRetire f).mem = s.mem := by
  simp [State.customRetire]
@[simp] theorem State.customRetire_ctr (s : State) (f : CustomEffect) : (s.customRetire f).ctr = s.ctr := by
  simp [State.customRetire]

end Sys2Proof.Machine
end

