-- ==== Sys2Proof/Laws/Traps.lean ====
section
/-! SUPPORT. Everything retiring without further effect and taking a trap can do, said once (10_state.md R22,
60_exceptions.md R480, R481, R492). -/

namespace Sys2Proof.Machine

/-! ### Retiring -/

@[simp] theorem State.countRetired_xlenOf (s : State) (skip : Option CounterSel) (y : Priv) :
    (s.countRetired skip).xlenOf y = s.xlenOf y := by
  obtain ⟨n, l, h⟩ := s.countRetired_cases skip
  rw [h]; rfl

@[simp] theorem State.countRetired_xlen (s : State) (skip : Option CounterSel) : (s.countRetired skip).xlen = s.xlen := by
  obtain ⟨n, l, h⟩ := s.countRetired_cases skip
  rw [h]; rfl

/-- An instruction with no effect of its own retires. -/
theorem State.retire_onlyRetired (s : State) : onlyRetired s (s.retire 4) := by
  obtain ⟨n, l, e⟩ := s.countRetired_cases none
  refine ⟨⟨?_, ?_⟩, ?_⟩
  · simp [State.retire]
  · simp [counted, State.retire, State.nextMinstret]
  · unfold State.retire
    rw [e]
    exact ⟨fun _ => rfl, fun _ => rfl, ⟨⟨rfl, rfl, rfl, rfl, rfl, rfl, rfl, rfl⟩, rfl, rfl⟩,
      ⟨rfl, rfl, rfl, rfl, rfl, rfl, rfl, rfl, rfl, rfl, rfl, rfl, rfl, rfl⟩, ⟨rfl, rfl, rfl⟩, rfl, rfl, rfl, rfl⟩

/-! ### Fetching after a wait -/

/-- What is fetched does not depend on the waiting state. -/
theorem State.fetch_of_setWait (q : State) (w : BitVec 32) (h : (q.setWait .running).fetch = .ok w) :
    q.fetch = .ok w := by
  have key : ∀ v n w, (q.setWait .running).fetchOp v n = .ok w ↔ q.fetchOp v n = .ok w := by
    intro v n w
    unfold State.fetchOp
    have e : (q.setWait .running).opCheck v.toNat n .fetch .plain (q.setWait .running).priv = q.opCheck v.toNat n .fetch .plain q.priv := rfl
    rw [e]
    split <;> simp <;> rfl
  unfold State.fetch at h ⊢
  have e1 : (q.setWait .running).extC = q.extC := rfl
  have e2 : (q.setWait .running).pcAddr = q.pcAddr := rfl
  have e3 : (q.setWait .running).xlen = q.xlen := rfl
  rw [e1, e2, e3] at h
  split at h
  · rename_i hc; rw [if_pos hc]
    split at h
    · rename_i lo hlo
      rw [key] at hlo; rw [hlo]
      simp only
      split at h
      · rename_i hl; rw [if_pos hl]
        split at h
        · rename_i hi hhi; rw [key] at hhi; rw [hhi]; exact h
        · rename_i e hne; exact absurd h (hne w)
      · rename_i hl; rw [if_neg hl]; exact h
    · rename_i e hne; exact absurd h (hne w)
  · rename_i hc; rw [if_neg hc]; exact (key _ _ _).1 h

/-! ### Counting before a trap -/

@[simp] theorem State.countTrapped_status (s : State) : s.countTrapped.status = s.status := by
  obtain ⟨n, l, h⟩ := s.countTrapped_cases
  rw [h]; rfl

@[simp] theorem State.countTrapped_unexpected (s : State) : s.countTrapped.unexpected = s.unexpected := by
  obtain ⟨n, l, h⟩ := s.countTrapped_cases
  rw [h]; rfl

@[simp] theorem State.countTrapped_rnmiReady (s : State) : s.countTrapped.rnmiReady = s.rnmiReady := by
  obtain ⟨n, l, h⟩ := s.countTrapped_cases
  rw [h]; rfl

/-! ### Entries -/

/-- What the entry of a trap into M-mode writes, and that it writes nothing else. -/
theorem State.enterM_entered (s : State) (isInt : Bool) (code : Nat) (tval : Word) :
    enteredM s (s.enterM isInt code tval) isInt code tval := by
  refine ⟨rfl, rfl, rfl, ?_, rfl, rfl, rfl, rfl, rfl, ?_, fun _ => rfl, fun _ => rfl,
    ⟨⟨rfl, rfl, rfl, rfl, rfl, rfl, rfl, rfl⟩, rfl, rfl⟩,
    ⟨rfl, rfl, rfl, rfl, rfl, rfl, rfl, rfl, rfl, rfl, rfl, rfl, rfl, rfl⟩⟩
  · simp [State.enterM]
  · refine ⟨fun h => ?_, fun h hp => ?_⟩
    · simp [State.enterM, State.elpIn, State.nextMpelp, h]
    · simp [State.enterM, State.elpIn, h, hp]

/-- What the entry of a trap into S-mode writes, and that it writes nothing else. -/
theorem State.enterS_entered (s : State) (isInt : Bool) (code : Nat) (tval : Word) :
    enteredS s (s.enterS isInt code tval) isInt code tval := by
  refine ⟨rfl, ?_, rfl, rfl, rfl, rfl, rfl, ?_, fun _ => rfl, fun _ => rfl,
    ⟨rfl, rfl, rfl, rfl, rfl, rfl, rfl, rfl⟩, rfl,
    ⟨rfl, rfl, rfl, rfl, rfl, rfl, rfl, rfl, rfl, rfl, rfl, rfl, rfl, rfl⟩, ⟨rfl, rfl, rfl⟩⟩
  · simp [State.enterS, State.setMstatus]
  · refine ⟨fun h => ?_, fun h hp => ?_⟩
    · simp [State.enterS, State.setMstatus, State.elpIn, State.nextSpelp, h]
    · simp [State.enterS, State.setMstatus, State.elpIn, h, hp]

/-- An entry is seen the same from before the counters counted. -/
theorem enteredM_of_countTrapped (s t : State) (i : Bool) (c : Nat) (v : Word) (h : enteredM s.countTrapped t i c v) :
    enteredM s t i c v := by
  obtain ⟨n, l, e⟩ := s.countTrapped_cases
  have hm := s.countTrapped_minstret
  rw [e] at h hm
  obtain ⟨a1, a2, a3, a4, a5, a6, a7, a8, a9, a10, a11, a12, a13, a14⟩ := h
  exact ⟨a1, a2, a3, a4, a5, a6, a7, a8, a9.trans hm, a10, a11, a12, a13, a14⟩

theorem enteredS_of_countTrapped (s t : State) (i : Bool) (c : Nat) (v : Word) (h : enteredS s.countTrapped t i c v) :
    enteredS s t i c v := by
  obtain ⟨n, l, e⟩ := s.countTrapped_cases
  have hm := s.countTrapped_minstret
  rw [e] at h hm
  obtain ⟨a1, a2, a3, a4, a5, a6, a7, a8, a9, a10, a11, a12, a13, a14⟩ := h
  exact ⟨a1, a2, a3, a4, a5, a6, a7.trans hm, a8, a9, a10, a11, a12, a13, a14⟩

theorem enteredM_of_countIdle (s t : State) (i : Bool) (c : Nat) (v : Word) (h : enteredM s.countIdle t i c v) :
    enteredM s t i c v := by
  unfold State.countIdle at h
  split at h
  · exact h
  · exact enteredM_of_countTrapped s t i c v h

theorem enteredS_of_countIdle (s t : State) (i : Bool) (c : Nat) (v : Word) (h : enteredS s.countIdle t i c v) :
    enteredS s t i c v := by
  unfold State.countIdle at h
  split at h
  · exact h
  · exact enteredS_of_countTrapped s t i c v h

/-! ### The cases -/

/-- Everything taking a trap can do. -/
inductive TrapCase (s t : State) : Prop where
  | critical (h : s.unexpected = true) (e : t = s.setCriticalError true)
  | rnmi (h : s.unexpected = true) (hr : s.rnmiReady = true) (c : Word) (e : t = s.enterRnmi .m c)
  | intoM (h : s.unexpected = false) (i : Bool) (c : Nat) (v : Word) (e : t = s.enterM i c v)
  | intoS (i : Bool) (c : Nat) (v : Word) (e : t = s.enterS i c v)

theorem State.trapM_cases (s : State) (i : Bool) (c : Nat) (v : Word) : TrapCase s (s.trapM i c v) := by
  unfold State.trapM
  split
  · rename_i h
    split
    · rename_i hr; exact .rnmi h hr _ rfl
    · exact .critical h rfl
  · rename_i h; exact .intoM (by simpa using h) i c v rfl

theorem State.trapS_cases (s : State) (i : Bool) (c : Nat) (v : Word) : TrapCase s (s.trapS i c v) := by
  unfold State.trapS
  split
  · exact s.trapM_cases _ _ _
  · exact .intoS i c v rfl

/-- The cases of a delivered trap; one into S-mode is delivered only where it is asked for. -/
theorem State.deliver_cases (s : State) (toS i : Bool) (c : Nat) (v : Word) :
    TrapCase s (s.deliver toS i c v) ∧ (toS = false → s.deliver toS i c v = s.trapM i c v) := by
  unfold State.deliver
  refine ⟨?_, fun h => by simp [h]⟩
  split
  · exact s.trapS_cases i c v
  · exact s.trapM_cases i c v

/-- The cases of a raised exception: the critical-error state with nothing else changed, or a delivered trap after the
counters counted. -/
theorem State.raise_cases (s : State) (c : Nat) (v : Word) :
    s.raise c v = s.setCriticalError true ∨
      s.raise c v = s.countTrapped.deliver (s.delegated c) false c v := by
  unfold State.raise
  split
  · exact .inl rfl
  · exact .inr rfl

end Sys2Proof.Machine
end

