-- ==== Sys2Proof/Tests/Slice0.lean ====
section
/-! SUPPORT. Tests of the model against the spec's own encodings and vectors (30_encoding.md R336, 95_test_vectors.md;
the vector is named at each test), and for each statement a state and operands that meet its hypotheses. -/

namespace Sys2Proof.Tests

set_option Elab.async false

open Sys2Proof Sys2Proof.Machine

/-! ### Well-formedness: a term each check refuses -/

/-- Nothing but the base: no S-mode, no Smrnmi, no Svinval, no C, no custom instructions, sixteen registers. -/
def bare : Features := { hasS := false, smrnmi := false, svinval := false, extC := false, customWords := [], rvE := true }

theorem test_wf_csr_rd : (Instr.csrrw 16 0 0x340).wellFormed bare = false ∧ (Instr.csrrs 16 0 0x340).wellFormed bare = false ∧
    (Instr.csrrc 16 0 0x340).wellFormed bare = false ∧ (Instr.csrrwi 16 0 0x340).wellFormed bare = false ∧
    (Instr.csrrsi 16 0 0x340).wellFormed bare = false ∧ (Instr.csrrci 16 0 0x340).wellFormed bare = false := by decide

theorem test_wf_csr_rs1 : (Instr.csrrw 0 31 0x340).wellFormed bare = false ∧
    (Instr.csrrs 0 31 0x340).wellFormed bare = false ∧ (Instr.csrrc 0 31 0x340).wellFormed bare = false ∧
    (Instr.csrrwi 0 31 0x340).wellFormed bare = true := by decide

theorem test_wf_returns : Instr.sret.wellFormed bare = false ∧ Instr.mnret.wellFormed bare = false ∧
    Instr.mret.wellFormed bare = true := by decide

theorem test_wf_fences : (Instr.sfenceVma 0 0).wellFormed bare = false ∧
    (Instr.sinvalVma 0 0).wellFormed { bare with hasS := true } = false ∧
    (Instr.sfenceVma 0 16).wellFormed { bare with hasS := true } = false ∧
    (Instr.sinvalVma 16 0).wellFormed { bare with hasS := true, svinval := true } = false := by decide

theorem test_wf_custom : ∀ i ∈ [Instr.custom100011 0 0, .custom110011 0 0, .custom100111 0 0, .custom110111 0 0,
    .custom101011 0 0, .custom111011 0 0, .custom101111 0 0, .custom111111 0 0, .cEbreak],
    i.wellFormed bare = false := by decide

/-! ### Decoding: words written out from 30_encoding.md R336 -/

theorem test_decode_csrrw : decodeTableWord 32 0b001101000000_00110_001_00101_1110011 = some (.csrrw 5 6 0x340) := by decide
theorem test_decode_csrrs : decodeTableWord 32 0b111100010100_00000_010_00101_1110011 = some (.csrrs 5 0 0xF14) := by decide
theorem test_decode_csrrc : decodeTableWord 32 0b001101000100_00110_011_00101_1110011 = some (.csrrc 5 6 0x344) := by decide
theorem test_decode_csrrwi : decodeTableWord 32 0b001100000000_11111_101_00001_1110011 = some (.csrrwi 1 31 0x300) := by decide
theorem test_decode_csrrsi : decodeTableWord 32 0b001100000000_01000_110_00000_1110011 = some (.csrrsi 0 8 0x300) := by decide
theorem test_decode_csrrci : decodeTableWord 32 0b001100000000_01000_111_00101_1110011 = some (.csrrci 5 8 0x300) := by decide
theorem test_decode_ecall : decodeTableWord 32 0b0000000_00000_00000_000_00000_1110011 = some .ecall := by decide
theorem test_decode_ebreak : decodeTableWord 32 0b0000000_00001_00000_000_00000_1110011 = some .ebreak := by decide
theorem test_decode_sret : decodeTableWord 32 0b0001000_00010_00000_000_00000_1110011 = some .sret := by decide
theorem test_decode_mret : decodeTableWord 32 0b0011000_00010_00000_000_00000_1110011 = some .mret := by decide
theorem test_decode_mnret : decodeTableWord 32 0b0111000_00010_00000_000_00000_1110011 = some .mnret := by decide
theorem test_decode_wfi : decodeTableWord 32 0b0001000_00101_00000_000_00000_1110011 = some .wfi := by decide
theorem test_decode_sfence : decodeTableWord 32 0b0001001_00111_00110_000_00000_1110011 = some (.sfenceVma 6 7) := by decide
theorem test_decode_sinval : decodeTableWord 32 0b0001011_00111_00110_000_00000_1110011 = some (.sinvalVma 6 7) := by decide
theorem test_decode_custom_user :
    decodeTableWord 32 0b100011_00000000101_000_00011_1110011 = some (.custom100011 5 3) ∧
    decodeTableWord 32 0b110011_10000000000_000_00001_1110011 = some (.custom110011 0x400 1) := by decide
theorem test_decode_custom_supervisor :
    decodeTableWord 32 0b100111_00000000101_000_00011_1110011 = some (.custom100111 5 3) ∧
    decodeTableWord 32 0b110111_00000000101_000_00011_1110011 = some (.custom110111 5 3) := by decide
theorem test_decode_custom_hs :
    decodeTableWord 32 0b101011_00000000101_000_00011_1110011 = some (.custom101011 5 3) ∧
    decodeTableWord 32 0b111011_00000000101_000_00011_1110011 = some (.custom111011 5 3) := by decide
theorem test_decode_custom_machine :
    decodeTableWord 32 0b101111_00000000101_000_00011_1110011 = some (.custom101111 5 3) ∧
    decodeTableWord 32 0b111111_11111111111_000_11111_1110011 = some (.custom111111 0x7FF 31) := by decide
theorem test_decode_c_ebreak : decodeTableWord 16 0b100_1_00000_00000_10 = some .cEbreak := by decide

/-- Words no row matches: SFENCE.VMA with rd, funct3 = 100, MRET with rd, a word of Volume I. -/
theorem test_decode_refuses :
    decodeWord 0x120000F3 = .error .reserved ∧ decodeWord 0x30004073 = .error .reserved ∧
    decodeWord 0x302000F3 = .error .reserved ∧ decodeWord 0x00100293 = .error .notSystem ∧
    decodeBytes [0x73, 0, 0] = .error .truncated := by decide

/-! ### One step on a small state (95_test_vectors.md section 2) -/

/-- The check of the next state; false where the step stops. -/
def after (o : Host.Outcome State Fault Refusal) (p : State → Bool) : Bool :=
  match o with
  | .next t => p t
  | _ => false

/-- The outcome is a next state. -/
def goesOn (o : Host.Outcome State Fault Refusal) : Bool := after o (fun _ => true)

/-- The start state S0 of 95_test_vectors.md section 2.0 in a configuration, `MDT` cleared. -/
def start (c : Cfg) : State :=
  let s := State.resetFor c
  { s with
    pc := 0x80000100
    csr := { s.csr with mtvec := 0x80000200, mstatus := { s.csr.mstatus with mdt := false } }
    sup := { s.sup with stvec := 0x80000300 } }

/-- S0 in REF. -/
def s0 : State := start Cfg.ref

/-- S0 with S-mode. -/
def s0S : State := start Cfg.refS

/-- A configuration with optional extensions. -/
def withExt (f : Exts → Exts) (c : Cfg) : Cfg := { c with ext := f c.ext }

/-- S0 with Smdbltrp. -/
def s0D : State := start (withExt (fun e => { e with smdbltrp := true }) Cfg.ref)

/-- A register set. -/
def reg (r : Nat) (v : Word) (s : State) : State := s.setXs (s.x.setIfInBounds r v)

/-- A PMP entry set. -/
def entry (i : Nat) (byte : Word) (addr : Word) (s : State) : State :=
  s.setPmp (s.pmp.setIfInBounds i { cfg := pmpCfgOf byte, addr := addr })

/-- A mode below M, with entry 15 allowing all. -/
def mode (p : Priv) (s : State) : State := (entry 15 0x1F 0x003FFFFFFFFFFFFF s).setPriv p

/-- The CSRs changed. -/
def csrs (f : Csrs → Csrs) (s : State) : State := s.setCsr (f s.csr)

/-- `mstatus` changed. -/
def status (f : Mstatus → Mstatus) (s : State) : State := s.setMstatus (f s.csr.mstatus)

/-- The platform changed. -/
def plat (f : Platform → Platform) (s : State) : State := s.setPlat (f s.plat)

/-- One step with a word placed where the next fetch reads. -/
def run (w : Nat) (s : State) : Host.Outcome State Fault Refusal := step (s.withFetchWord 32 w)

/-- A trap into M-mode from S0: cause, trap value, `mstatus`, not counted. -/
def trapped (cause tval mst : Word) (t : State) : Bool :=
  t.pc == 0x80000200 && t.csr.mepc == 0x80000100 && t.csr.mcause == cause && t.csr.mtval == tval &&
    t.mstatusRead == mst && t.priv == .m

/-- The instruction retired at S0. -/
def retired (t : State) : Bool := t.pc == 0x80000104 && t.cnt.minstret == 1

theorem test_V1_csrrw : after (run 0x340312F3 (reg 6 0x1234 (csrs (fun c => { c with mscratch := 0xABCD }) s0)))
    (fun t => t.xAt 5 == 0xABCD && t.csr.mscratch == 0x1234 && retired t) = true := by decide +kernel
theorem test_V13_csrrw_swap : after (run 0x340292F3 (reg 5 0x11 (csrs (fun c => { c with mscratch := 0x22 }) s0)))
    (fun t => t.xAt 5 == 0x22 && t.csr.mscratch == 0x11 && retired t) = true := by decide +kernel
theorem test_V4_csrrs_read_only : after (run 0xF1432073 s0) (trapped 2 0xF1432073 0x200001800) = true := by decide +kernel
theorem test_V15c_csrrs_minstret : after (run 0xB02322F3 { s0 with cnt := { s0.cnt with minstret := 7 } })
    (fun t => t.xAt 5 == 7 && t.cnt.minstret == 7) = true := by decide +kernel
theorem test_V69b_csrrc : after (run 0x344332F3 (reg 6 0x200 (csrs (fun c => { c with seipSw := true }) s0S)))
    (fun t => t.xAt 5 == 0x200 && t.mipRead == 0 && retired t) = true := by decide +kernel
/-- CSRRWI x1, mscratch, 31, by hand from 40_csr_access.md R379. -/
theorem test_csrrwi : after (run 0x340FD0F3 (csrs (fun c => { c with mscratch := 0xABCD }) s0))
    (fun t => t.xAt 1 == 0xABCD && t.csr.mscratch == 31 && retired t) = true := by decide +kernel
theorem test_V6_csrrsi : after (run 0x30046073 s0) (fun t => t.mstatusRead == 0x200000008 && retired t) = true := by
  decide +kernel
theorem test_V45a_csrrsi_mdt : after (run 0x30046073 (status (fun m => { m with mdt := true }) s0D))
    (fun t => t.mstatusRead == 0x40200000000) = true := by decide +kernel
/-- 10_state.md R76: a write of `mstatus` with SIE and SDT set stores both. -/
theorem test_sie_beside_sdt : after (run 0x300312F3 (reg 6 0x1000002
      (csrs (fun c => { c with menvcfg := { c.menvcfg with dte := true } })
        (start (withExt (fun e => { e with ssdbltrp := true }) Cfg.refS)))))
    (fun t => t.status.sie && t.status.sdt && retired t) = true := by decide +kernel
theorem test_V7_csrrci : after (run 0x300472F3 (status (fun m => { m with mie := true }) s0))
    (fun t => t.xAt 5 == 0x200000008 && t.mstatusRead == 0x200000000 && retired t) = true := by decide +kernel
theorem test_V24_ecall : after (run 0x00000073 (status (fun m => { m with mie := true }) s0))
    (fun t => trapped 11 0 0x200001880 t && t.cnt.minstret == 0) = true := by decide +kernel
theorem test_V25_ecall_user :
    after (run 0x00000073 (csrs (fun c => { c with mtvec := 0x80000201 }) (mode .u (status (fun m => { m with mie := true }) s0))))
      (fun t => trapped 8 0 0x200000080 t && t.cnt.minstret == 0) = true := by decide +kernel
theorem test_V26_ebreak : after (run 0x00100073 (status (fun m => { m with mpie := true }) s0))
    (trapped 3 0 0x200001800) = true := by decide +kernel
/-- C.EBREAK in REF is no instruction (41_ecall_ebreak.md R405): code 2 with the 16 bits' word as fetched. -/
theorem test_c_ebreak_absent : after (run 0x9002 s0) (trapped 2 0x9002 0x200001800) = true := by decide +kernel
/-- C.EBREAK with C: the breakpoint of R405. -/
theorem test_c_ebreak : after (step ((start { Cfg.ref with extC := true, misaReset := 0x0100104#26 }).withFetchWord 16 0x9002))
    (trapped 3 0 0x200001800) = true := by decide +kernel
theorem test_V67a_sret : after (run 0x10200073
      { mode .s (status (fun m => { m with spie := true }) s0S) with sup := { s0S.sup with sepc := 0x80000500 } })
    (fun t => t.priv == .u && t.pc == 0x80000500 && t.mstatusRead == 0xA00000022 && t.cnt.minstret == 1) = true := by
  decide +kernel
theorem test_V67b_sret_tsr : after (run 0x10200073 (mode .s (status (fun m => { m with tsr := true }) s0S)))
    (trapped 2 0x10200073 0xA00400800) = true := by decide +kernel
theorem test_V30_mret : after (run 0x30200073
      (csrs (fun c => { c with mepc := 0x80000400 }) (status (fun m => { m with mpie := true, mprv := true }) s0)))
    (fun t => t.priv == .u && t.pc == 0x80000400 && t.mstatusRead == 0x200000088 && t.cnt.minstret == 1) = true := by
  decide +kernel
theorem test_V43_mret_mdt : after (run 0x30200073 (csrs (fun c => { c with mepc := 0x80000400 })
      (status (fun m => { m with mdt := true, mpp := .m, mpie := true }) s0D)))
    (fun t => t.priv == .m && t.pc == 0x80000400 && t.mstatusRead == 0x200000088) = true := by decide +kernel
/-- MNRET without Smrnmi is reserved (42_trap_return.md R417). -/
theorem test_mnret_absent : after (run 0x70200073 s0) (trapped 2 0x70200073 0x200001800) = true := by decide +kernel
theorem test_V36_wfi_tw : after (run 0x10500073 (mode .u (status (fun m => { m with tw := true }) s0)))
    (trapped 2 0x10500073 0x200200000) = true := by decide +kernel
theorem test_V34_wfi : after (run 0x10500073 (plat (fun p => { p with mtime := 10, mtimecmp := 50 })
      (csrs (fun c => { c with mie := 0x80 }) (status (fun m => { m with mie := true }) s0)))) retired = true := by
  decide +kernel
theorem test_V68c_sfence : after (run 0x12000073 (mode .s (status (fun m => { m with tvm := true }) s0S)))
    (trapped 2 0x12000073 0xA00100800) = true := by decide +kernel
theorem test_V68d_sfence : after (run 0x12000073 (mode .s s0S)) (fun t => retired t && t.priv == .s) = true := by
  decide +kernel
/-- SINVAL.VMA without Svinval is reserved (44_custom_and_fences.md R435). -/
theorem test_sinval_absent : after (run 0x16000073 s0S) (trapped 2 0x16000073 0xA00001800) = true := by decide +kernel
theorem test_V27_custom : after (run 0x8C000073 s0) (trapped 2 0x8C000073 0x200001800) = true := by decide +kernel
/-- The other seven custom rows, by V27's rule (44_custom_and_fences.md R431). -/
theorem test_custom_rows : ∀ w ∈ [0xCC000073, 0x9C000073, 0xDC000073, 0xAC000073, 0xEC000073, 0xBC000073, 0xFC000073],
    after (run w s0) (trapped 2 (BitVec.ofNat 64 w) 0x200001800) = true := by decide +kernel

theorem test_V14b_counter_user : after (run 0xC00022F3
      { mode .u (csrs (fun c => { c with mcounteren := 1 }) s0) with cnt := { s0.cnt with mcycle := 500 } })
    (fun t => t.xAt 5 == 500 && t.priv == .u && retired t) = true := by decide +kernel
theorem test_V59b_mstatus_mask : after (run 0x300312F3 (reg 6 0xFFFFFFFFFFFFFFFF s0S))
    (fun t => t.xAt 5 == 0xA00000000 && t.mstatusRead == 0xA007A19AA) = true := by decide +kernel
theorem test_V29b_illegal : after (run 0xFFFFFFFF s0) (trapped 2 0xFFFFFFFF 0x200001800) = true := by decide +kernel
theorem test_V38a_vectored : after (run 0x00100293 (plat (fun p => { p with mtimecmp := 0 })
      (csrs (fun c => { c with mtvec := 0x80000201, mie := 0x80 }) (status (fun m => { m with mie := true }) s0))))
    (fun t => t.pc == 0x8000021C && t.csr.mcause == 0x8000000000000007 && t.mstatusRead == 0x200001880 && t.xAt 5 == 0 &&
      t.cnt.minstret == 0) = true := by decide +kernel
theorem test_V64b_delegated : after (run 0x00100293 (mode .s
      { csrs (fun c => { c with mideleg := 0x20, mie := 0x20, stip := true }) (status (fun m => { m with sie := true }) s0S)
        with sup := { s0S.sup with stvec := 0x80000301 } }))
    (fun t => t.pc == 0x80000314 && t.sup.sepc == 0x80000100 && t.sup.scause == 0x8000000000000005 &&
      t.mstatusRead == 0xA00000120 && t.priv == .s) = true := by decide +kernel
theorem test_V47a_misaligned : after (run 0x00033283 (reg 6 0x80001004 s0)) (trapped 4 0x80001004 0x200001800) = true := by
  decide +kernel
theorem test_V50d_partial_match : after (run 0x00033283
      (reg 6 0x80000800 (entry 0 0x10 0x20000200 (entry 1 0x1F 0x20000FFF s0)))) (trapped 5 0x80000800 0x200001800) = true := by
  decide +kernel
theorem test_V51b_locked_cfg : after (run 0x3A0312F3 (reg 6 0x1F1F (entry 0 0x9D 0x20000FFF s0)))
    (fun t => t.xAt 5 == 0x9D && t.pmpcfgRead 0 == 0x1F9D && retired t) = true := by decide +kernel
theorem test_V52_no_pmp : after (run 0x00100293 (s0.setPriv .u)) (trapped 1 0x80000100 0x200000000) = true := by
  decide +kernel
theorem test_V46b_critical : after (run 0x00032283 (reg 6 0x10000000 (status (fun m => { m with mdt := true }) s0D)))
    (fun t => t.criticalError && t.pc == 0x80000100 && t.csr.mcause == 0) = true := by decide +kernel
/-- A misaligned load from `mtime` is an access fault (92_eei_decisions.md D18), not address-misaligned. -/
theorem test_misaligned_device : after (run 0x00032283 (reg 6 0x0200BFF9 s0)) (trapped 5 0x0200BFF9 0x200001800) = true := by
  decide +kernel
theorem test_V56c_mtime_half : after (run 0x00432283 (reg 6 0x0200BFF8 (plat (fun p => { p with mtime := 0x8765432112345678 }) s0)))
    (fun t => t.xAt 5 == 0xFFFFFFFF87654321) = true := by decide +kernel
theorem test_V56a_mtimecmp : after (run 0x00733023 (reg 7 900 (reg 6 0x02004000 (plat (fun p => { p with mtime := 1000 }) s0))))
    (fun t => t.plat.mtimecmp == 900 && t.mipRead == 0x80 && retired t) = true := by decide +kernel

/-- MUL, PRESUMED from Volume I, on a hart with C and without M: an absent extension's word is illegal
(30_encoding.md R345). -/
theorem test_absent_extension : after (run 0x026283B3 (start { Cfg.ref with extC := true, misaReset := 0x0100104#26 }))
    (trapped 2 0x026283B3 0x200001800) = true := by decide +kernel
/-- 11_state_trap_csrs.md R153: a misaligned load that runs into an I/O region reports where that begins. -/
theorem test_misaligned_portion : after (run 0x00032283 (reg 6 0x8000FFFE (start { Cfg.ref with
    misalignedKind := .perRegion
    pma := [refMainMemory, { refMainMemory with base := 0x80010000, mainMemory := false, idempotentReads := false }] })))
    (trapped 5 0x80010000 0x200001800) = true := by decide +kernel
/-- 12_state_config_pmp_mmio.md R202: clearing `MLPE` in M-mode leaves NO_LP_EXPECTED. -/
theorem test_mlpe_clears_elp : after (run 0x74701073
    (csrs (fun c => { c with mseccfg := { c.mseccfg with mlpe := true } })
      ((start (withExt (fun e => { e with zicfilp := true }) Cfg.ref)).setElp true)))
    (fun t => !t.elp && !t.csr.mseccfg.mlpe && retired t) = true := by decide +kernel
/-- 12_state_config_pmp_mmio.md R202: with `MLPE` = 0 an indirect jump (`jalr x1, 0(x6)`) leaves NO_LP_EXPECTED. -/
theorem test_jalr_without_landing_pads : after (run 0x000300E7
    (reg 6 0x80000400 (start (withExt (fun e => { e with zicfilp := true }) Cfg.ref))))
    (fun t => !t.elp && t.pc == 0x80000400 && t.xAt 1 == 0x80000104) = true := by decide +kernel
/-- 10_state.md R65, R67: the status field of an additional extension is written in its CSR, and while it is Off the register
with its state is illegal. -/
theorem test_custom_status :
    let s := start { Cfg.ref with xsKind := .precise, xsSources := 1, customCsrs :=
      [{ address := 0x7C0, extension := some 0, statusAt := some 4 }, { address := 0x7C1, extension := some 0, statusAt := none }] }
    after (run 0x7C031073 (reg 6 0x20 s)) (fun t => t.units.statuses == [2] && t.xs == 2 && retired t) = true ∧
      after (run 0x7C1012F3 s) (trapped 2 0x7C1012F3 0x200001800) = true := by decide +kernel
/-- 10_state.md R68: an instruction that modifies the state of an extension leaves it Dirty, also if it writes Clean into the
status field; R67: modifying a unit that is Off is not allowed. -/
theorem test_custom_modifies :
    let s := start { Cfg.ref with xsKind := .precise, xsSources := 1, customCsrs :=
      [{ address := 0x7C0, extension := some 0, statusAt := some 4 }] }
    let e : CustomEffect := { regs := [], csrs := [(0x7C0, 0x20)], loads := [], stores := [], units := [(.other 0, .modify)], target := none }
    s.customAllowed e = false ∧ (s.takeStatuses [(0, 1)]).customAllowed e = true ∧
      ((s.takeStatuses [(0, 1)]).customRetire e).xs = 3 := by decide +kernel
/-- 10_state.md R67: a word of another extension that uses floating-point registers is illegal while FS is Off. -/
theorem test_other_word_off :
    after (run 0x0000000B (start { Cfg.ref with misaReset := 0x0100120#26, fsKind := .precise, ext := { Exts.nil with
      otherWords := [{ mask := 0x7F, value := 0x0B, letter := none, units := [.float] }] } })) (trapped 2 0xB 0x200001800) = true := by
  decide +kernel
/-- 20_memory.md R250: a misaligned access over the end of the address space is checked at both its ends. -/
theorem test_misaligned_wrap : after (run 0x00032283 (reg 6 0xFFFFFFFE (start { Cfg.ref with
    mxlen := .x32, sxlKind := .ro .x32, uxlKind := .ro .x32, misalignedFirst := false, paBits := 34
    pma := [{ refMainMemory with base := 0, size := 0x100000000 }] })))
    (fun t => t.csr.mcause == 4 && t.csr.mtval == 0xFFFFFFFE) = true := by decide +kernel
/-- The inputs of the next step. -/
def given (f : PlatIn → PlatIn) (s : State) : State := s.setInputs [f s.quiet]
/-- 11_state_trap_csrs.md R118: a request sets a writable platform bit of `mip`, and writing 0 clears it. -/
theorem test_platform_bit :
    let s := start { Cfg.ref with platIrqs := [16], platSwMask := 0x10000 }
    after (run 0x344022F3 (given (fun p => { p with irqSet := 0x10000 }) s)) (fun t => t.xAt 5 == 0x10000) = true ∧
      after (run 0x34401073 (given (fun p => { p with irqSet := 0x10000 }) s)) (fun t => t.mipRead == 0) = true := by decide +kernel
/-- 11_state_trap_csrs.md R161: `mconfigptr` presents a memory-mapped register that was programmed. -/
theorem test_mconfigptr :
    after (run 0xF15022F3 ((start { Cfg.ref with mconfigptrAt := some 0x80000800 }).setMem [(0x80000801, 0x12)]))
      (fun t => t.xAt 5 == 0x1200) = true := by decide +kernel
/-- 12_state_config_pmp_mmio.md R185: with `SSE` = 0 SSRDP is a Zimop and C.SSPUSH a Zcmop instruction in U-mode. -/
theorem test_zicfiss_off :
    let s := mode .u (start (withExt (fun e => { e with zicfiss := true })
      { Cfg.ref with extC := true, misaReset := 0x0100104#26 }))
    after (run 0xCDC042F3 (reg 5 7 s)) (fun t => t.xAt 5 == 0 && retired t) = true ∧
      after (run 0x6081 s) (fun t => t.pc == s.pc + 2 && t.csr.mcause == 0) = true := by decide +kernel
/-- 30_encoding.md R334: with B and C on, CLMUL (Zbc), CZERO.EQZ (Zicond) and C.ZEXT.B (Zcb) are words of absent extensions. -/
theorem test_absent_beside_present :
    let s := start { Cfg.ref with extC := true, misaReset := 0x0100106#26 }
    ∀ w ∈ [0x0A7312B3, 0x0E7352B3, 0x9C61], after (run w s) (fun t => t.csr.mcause == 2 && t.csr.mtval.toNat == w) = true := by
  decide +kernel

/-! ### Witnesses: states and operands that meet the hypotheses of each statement, clause by clause -/

theorem of_after {o : Host.Outcome State Fault Refusal} {p : State → Bool} (h : after o p = true) :
    ∃ t, o = .next t ∧ p t = true := by
  cases o with
  | next t => exact ⟨t, rfl, h⟩
  | fault r => cases h
  | refused r => cases h

theorem of_goesOn {o : Host.Outcome State Fault Refusal} (h : goesOn o = true) : ∃ t, o = .next t :=
  let ⟨t, e, _⟩ := of_after h
  ⟨t, e⟩

/-- The fetch answers a word. -/
def fetches (s : State) (w : BitVec 32) : Bool :=
  match s.fetch with
  | .ok v => v == w
  | _ => false

theorem of_fetches {s : State} {w : BitVec 32} (h : fetches s w = true) : s.fetch = .ok w := by
  unfold fetches at h
  cases e : s.fetch with
  | ok v => rw [e] at h; simp at h; rw [h]
  | exc t c v => rw [e] at h; cases h
  | stop f => rw [e] at h; cases h

/-- S0 after the platform's part of a step, with a word to fetch. -/
def ready (w : Nat) (s : State) : State := s.withFetchWord 32 w

/-- A hart with C, pc at 0x80000100. -/
def s0C : State := start { Cfg.ref with extC := true, misaReset := 0x0100104#26, misaWmask := 4 }

/-- S0 with an enabled timer interrupt pending. -/
def s0I : State := plat (fun p => { p with mtimecmp := 0 }) (csrs (fun c => { c with mie := 0x80 }) s0)

/-- Smdbltrp and Smrnmi, `MDT` set, `NMIE` as given. -/
def s0N (nmie : Bool) : State :=
  let s := status (fun m => { m with mdt := true }) (start (withExt (fun e => { e with smdbltrp := true, smrnmi := true }) Cfg.ref))
  s.setRnmi { s.rnmi with nmie := nmie }

/-- RV32 with Smdbltrp. -/
def s0D32 : State :=
  start (withExt (fun e => { e with smdbltrp := true })
    { Cfg.ref with mxlen := .x32, sxlKind := .ro .x32, uxlKind := .ro .x32 })

/-- F present, FS as given. -/
def s0F (fs : BitVec 2) : State :=
  status (fun m => { m with fs := fs })
    (start (withExt (fun e => { e with extF := true }) { Cfg.ref with fsKind := .precise, misaReset := 0x0100120#26 }))

theorem witness_Funct3FourIsReserved : opcodeOf 0x30004073 = systemOpcode ∧ funct3Of 0x30004073 = 4 ∧
    opcodeOf 0xFFFFCFF3 = systemOpcode ∧ funct3Of 0xFFFFCFF3 = 4 ∧
    (let s := mode .u (start (withExt (fun e => { e with zicfiss := true }) Cfg.ref))
     s.cfg.ext.zicfiss = true ∧ wordOfZicfiss 0xCDC042F3 = true ∧ s.priv ≠ .m ∧ s.envcfg.sse = false ∧ s.rvE = false ∧
       opcodeOf 0xCDC042F3 = systemOpcode ∧ funct3Of 0xCDC042F3 = 4) := by decide +kernel

theorem witness_StepRunsDecodedInstruction :
    let s := ready 0x73 s0
    runsNow (s.sampled s.input) s.input ∧ (s.sampled s.input).fetch = .ok 0x73 ∧ decodeWord 0x73 = .ok .ecall :=
  ⟨by unfold runsNow; decide +kernel, of_fetches (by decide +kernel), by decide⟩

theorem witness_QuietSampling : s0.inputs = [] := by decide +kernel

theorem witness_FetchReadsLittleEndian :
    (s0.extC = false ∧ s0.opCheck s0.pcAddr.toNat 4 .fetch .plain s0.priv = .pass) ∧
    (s0C.extC = true ∧ s0C.opCheck s0C.pcAddr.toNat 2 .fetch .plain s0C.priv = .pass ∧
      isLong (s0C.byteAt s0C.pcAddr.toNat) = false) ∧
    (let s := ready 0x13 s0C
     s.extC = true ∧ s.opCheck s.pcAddr.toNat 2 .fetch .plain s.priv = .pass ∧
      isLong (s.byteAt s.pcAddr.toNat) = true ∧
      s.opCheck (narrow s.xlen (s.pcAddr + 2)).toNat 2 .fetch .plain s.priv = .pass) := by decide +kernel

/-- S0 in a mode of a hart with S-mode, the supervisor timer interrupt delegated, enabled and pending. -/
def s0Del (p : Priv) : State :=
  mode p (csrs (fun c => { c with mideleg := 0x20, mie := 0x20, stip := true }) (status (fun m => { m with sie := true }) s0S))

theorem witness_InterruptIsTaken :
    (let s := status (fun m => { m with mie := true }) s0I
     s.input.reset = none ∧ (s.sampled s.input).criticalError = false ∧
     (s.sampled s.input).nmiTaken s.input = false ∧ (s.sampled s.input).wait.stalled = false ∧
     (s.sampled s.input).pendingInterrupt = some (false, 7) ∧ (s.sampled s.input).unexpected = false) ∧
    (let s := s0Del .s
     s.input.reset = none ∧ (s.sampled s.input).criticalError = false ∧
     (s.sampled s.input).nmiTaken s.input = false ∧ (s.sampled s.input).wait.stalled = false ∧
     (s.sampled s.input).pendingInterrupt = some (true, 5) ∧ (s.sampled s.input).status.sdt = false) := by decide +kernel

theorem witness_InterruptCondition :
    (mode .u s0I).pendingInterrupt = some (false, 7) ∧
    ((mode .u s0I).priv ≠ .m ∧
      (mode .u s0I).mipRead &&& (mode .u s0I).mieRead &&&
        ~~~(if (mode .u s0I).hasS then (mode .u s0I).midelegRead else 0) ≠ 0) ∧
    ((s0N true).mdtOk = true ∧ (s0N true).cfg.ext.smdbltrp = true ∧ (s0N true).csr.mstatus.mdt = true ∧
      (s0N true).priv = .m) ∧
    ((s0Del .u).pendingInterrupt = some (true, 5) ∧ (s0Del .s).pendingInterrupt = some (true, 5)) ∧
    ((s0Del .s).hasS = true ∧ (s0Del .s).priv = .s ∧ (s0Del .s).csr.mstatus.sie = true ∧
      (s0Del .s).mipRead &&& (s0Del .s).mieRead &&& ~~~(s0Del .s).midelegRead = 0 ∧
      (s0Del .s).mipRead &&& (s0Del .s).mieRead &&& (s0Del .s).midelegRead ≠ 0) := by decide +kernel

theorem witness_InterruptPriority : s0.cfg.platIrqs = [] ∧
    ([11, 3, 7, 9, 1, 5, 13] = [] ++ 11 :: [3, 7, 9, 1, 5, 13] ∧ (0xFFFF : Word).getLsbD 11 = true) ∧
    ([11, 3, 7, 9, 1, 5, 13] = [11, 3, 7, 9, 1, 5] ++ 13 :: [] ∧
      (∀ j ∈ [11, 3, 7, 9, 1, 5], (0x2000 : Word).getLsbD j = false) ∧ (0x2000 : Word).getLsbD 13 = true) := by
  decide +kernel

theorem witness_CsrInstructionFrame :
    ((Instr.csrrw 0 0 0x340).wellFormed s0.features = true ∧ s0.csrAt 0x340 = some .mscratch ∧
      Instr.csrrw 0 0 0x340 ∈ writingForms 0 0 0x340 ∧ s0.csrAllowed .mscratch 0x340 true = true) ∧
    ((Instr.csrrci 31 0 0xF14).wellFormed s0.features = true ∧ s0.csrAt 0xF14 = some .mhartid ∧
      Instr.csrrci 31 0 0xF14 ∈ readingForms 31 0xF14 ∧ s0.csrAllowed .mhartid 0xF14 false = true) := by decide +kernel

/-- Also the hypotheses of the two statements on setting and clearing bits. -/
theorem witness_ScratchWrite : s0.priv = .m ∧ regExists s0.features 0 = true ∧ regExists s0.features 31 = true := by
  decide +kernel

theorem witness_ScratchSetBits : s0.priv = .m ∧ regExists s0.features 0 = true ∧ regExists s0.features 31 = true :=
  witness_ScratchWrite

theorem witness_ScratchClearBits : s0.priv = .m ∧ regExists s0.features 0 = true ∧ regExists s0.features 31 = true :=
  witness_ScratchWrite

theorem witness_NonexistentCsrIsIllegal :
    (Instr.csrrw 1 2 0x7C0 ∈ csrForms 1 2 0x7C0 ∧ ∀ n, s0.csrAt 0x7C0 = some n → s0.csrExists n = false) ∧
    (s0S.cfg.ext.sstc = false ∧ s0.cfg.mxlen = .x64 ∧ s0.hasS = false) ∧
    (start { Cfg.ref with hasU := false, misaReset := 0x0000100#26 }).hasU = false := by
  refine ⟨⟨by decide, fun n h => ?_⟩, by decide +kernel, by decide +kernel⟩
  have e : s0.csrAt 0x7C0 = none := by decide +kernel
  rw [e] at h
  cases h

theorem witness_CsrPrivilegeIsChecked :
    (Instr.csrrs 5 0 0x300 ∈ csrForms 5 0 0x300 ∧ (mode .s s0S).priv.code.toNat < ((0x300 : BitVec 12).extractLsb' 8 2).toNat) ∧
    (Instr.csrrs 5 0 0x100 ∈ csrForms 5 0 0x100 ∧ (mode .u s0S).priv.code.toNat < ((0x100 : BitVec 12).extractLsb' 8 2).toNat) := by
  decide +kernel

theorem witness_ReadOnlyCsr :
    ((0xF14 : BitVec 12).extractLsb' 10 2 = 3 ∧ Instr.csrrw 0 0 0xF14 ∈ writingForms 0 0 0xF14) ∧
    ((0xC00 : BitVec 12).extractLsb' 10 2 = 3 ∧ Instr.csrrsi 31 0 0xC00 ∈ readingForms 31 0xC00 ∧
      regExists s0.features 31 = true ∧ s0.csrAt 0xC00 = some (.shadow 0 false) ∧ s0.csrExists (.shadow 0 false) = true ∧
      ((0xC00 : BitVec 12).extractLsb' 8 2).toNat ≤ s0.priv.code.toNat ∧ s0.csrSpecial false (.shadow 0 false) = true) := by
  decide +kernel

theorem witness_CounterAccess :
    (csrNamed 0xC01 = some (.shadow 1 false) ∧ regExists s0.features 5 = true ∧ Instr.csrrs 5 0 0xC01 ∈ readingForms 5 0xC01 ∧
      (start { Cfg.ref with timeCsrImpl := false }).cfg.timeCsrImpl = false) ∧
    (csrNamed 0xC00 = some (.shadow 0 false) ∧ s0.csrExists (.shadow 0 false) = true ∧ s0.priv = .m) ∧
    (csrNamed 0xC1F = some (.shadow 31 false) ∧ s0S.csrExists (.shadow 31 false) = true ∧
      (mode .u s0S).priv = .u ∧ (mode .u s0S).mcounterenRead.getLsbD 31 = false) ∧
    ((mode .s (csrs (fun c => { c with mcounteren := 4 }) s0S)).priv = .s ∧
      (mode .s (csrs (fun c => { c with mcounteren := 4 }) s0S)).mcounterenRead.getLsbD 2 = true) := by decide +kernel

theorem witness_CounterWriteWins : s0.priv = .m ∧ s0.cfg.mxlen = .x64 ∧ regExists s0.features 0 = true ∧
    regExists s0.features 31 = true := by decide +kernel

theorem witness_SeipReadModifyWrite : s0S.priv = .m ∧ s0S.hasS = true ∧ regExists s0S.features 1 = true ∧
    regExists s0S.features 31 = true ∧ (1 : BitVec 5) ≠ 0 ∧ (31 : BitVec 5) ≠ 0 := by decide +kernel

theorem witness_MdtClearsMie : (s0D.cfg.ext.smdbltrp = true ∧ s0D.cfg.mxlen = .x64) ∧
    (s0D32.cfg.ext.smdbltrp = true ∧ s0D32.cfg.mxlen = .x32) := by decide +kernel

theorem witness_MtvecWrite : s0.priv = .m ∧ s0.cfg.kind .mtvec = .ref ∧ regExists s0.features 0 = true ∧
    regExists s0.features 31 = true := by decide +kernel

theorem witness_MepcLowBitsZero : (s0.cfg.kind .mepc ≠ .impl ∧ s0.cfg.extC = false ∧
    (start { Cfg.ref with warlKinds := [(.mepc, .impl)] }).cfg.kind .mepc = .impl ∧
    (let c := (start { Cfg.ref with warlKinds := [(.mepc, .impl)] }).cfg
     validAddress c (clearEpcLow c (narrow c.mxlen 0x80000402)) = true)) ∧ ∃ t, (ready 0x73 s0).csr.mepc.getLsbD 0 = false ∧
    ((ready 0x73 s0).cfg.extC = false ∧ (ready 0x73 s0).csr.mepc.getLsbD 1 = false) ∧
    step (ready 0x73 s0) = .next t := by
  obtain ⟨t, h⟩ := of_goesOn (o := step (ready 0x73 s0)) (by decide +kernel)
  exact ⟨by decide +kernel, t, by decide +kernel, by decide +kernel, h⟩

theorem witness_MisaWriteSuppressed :
    (let s := { s0C with pc := 0x80000102 }
     s.priv = .m ∧ s.cfg.misaImpl = true ∧
     (Instr.csrrw 0 31 0x301 ∈ writingForms 0 31 0x301 ∧ (Instr.csrrw 0 31 0x301).wellFormed s.features = true ∧
       (s.legalizeMisa ((writtenValue s s.misaRead (.csrrw 0 31 0x301)).setWidth 26)).getLsbD 2 = false) ∧
     (Instr.csrrci 1 4 0x301 ∈ writingForms 1 4 0x301 ∧ (Instr.csrrci 1 4 0x301).wellFormed s.features = true ∧
       (s.legalizeMisa ((writtenValue s s.misaRead (.csrrci 1 4 0x301)).setWidth 26)).getLsbD 2 = false) ∧
     s.csr.misa.getLsbD 2 = true ∧ (s.pc + 4).getLsbD 1 = true) ∧ (s0C.pc + 4).getLsbD 1 = false := by decide +kernel

theorem witness_FloatCsrAccess :
    (Instr.csrrw 1 2 1 ∈ csrForms 1 2 1 ∧ s0.extF = false) ∧
    (Instr.csrrci 1 2 3 ∈ csrForms 1 2 3 ∧ (s0F 0).extF = true ∧ (s0F 0).status.fs = 0) ∧
    ((s0F 1).extF = true ∧ (s0F 1).status.fs ≠ 0 ∧ regExists (s0F 1).features 0 = true ∧
      regExists (s0F 1).features 31 = true) := by decide +kernel

theorem witness_TrapIntoMachineMode :
    s0.cfg.ext.smdbltrp = false ∧
    (s0D.csr.mstatus.mdt = false ∧ s0D.cfg.ext.smrnmi = false) ∧
    ((s0N true).cfg.ext.smdbltrp = true ∧ (s0N true).csr.mstatus.mdt = true ∧ (s0N true).cfg.ext.smrnmi = true ∧
      (s0N true).rnmi.nmie = true) ∧
    ((s0N false).cfg.ext.smdbltrp = true ∧ (s0N false).csr.mstatus.mdt = true ∧ (s0N false).rnmi.nmie = false) ∧
    (let s := status (fun m => { m with mdt := false }) (s0N false)
     s.cfg.ext.smdbltrp = true ∧ s.cfg.ext.smrnmi = true ∧ s.priv = .m ∧ s.rnmi.nmie = false ∧
      s.csr.mstatus.mdt = false) := by
  decide +kernel

theorem witness_ExceptionTargetMode :
    (let s := csrs (fun c => { c with medeleg := 0x101 }) (mode .u s0S)
     s.hasS = true ∧ s.priv ≠ .m ∧ s.medelegRead.getLsbD 0 = true ∧ s.medelegRead.getLsbD 8 = true ∧ s.status.sdt = false) ∧
    (s0.hasS = false ∧ s0.unexpected = false) ∧
    (s0S.priv = .m ∧ s0S.unexpected = false) ∧
    ((mode .s s0S).medelegRead.getLsbD 2 = false ∧ (mode .s s0S).unexpected = false) := by decide +kernel

theorem witness_Ecall :
    ((mode .u s0S).priv = .u ∧ (mode .u s0S).delegated 8 = false ∧ (mode .u s0S).unexpected = false) ∧
    ((mode .s s0S).priv = .s ∧ (mode .s s0S).delegated 9 = false ∧ (mode .s s0S).unexpected = false) ∧
    (s0S.priv = .m ∧ s0S.delegated 11 = false ∧ s0S.unexpected = false) ∧
    (let s := csrs (fun c => { c with medeleg := 0x300 }) (mode .u s0S)
     s.priv = .u ∧ s.delegated 8 = true ∧ s.status.sdt = false) ∧
    (let s := csrs (fun c => { c with medeleg := 0x300 }) (mode .s s0S)
     s.priv = .s ∧ s.delegated 9 = true ∧ s.status.sdt = false) := by decide +kernel

theorem witness_Ebreak : (s0.delegated 3 = false ∧ s0.unexpected = false ∧ s0.extC = false) ∧
    (s0C.delegated 3 = false ∧ s0C.unexpected = false ∧ s0C.extC = true) := by decide +kernel

theorem witness_VectoredTrapTarget :
    (s0.unexpected = false ∧ s0.csr.mtvec.getLsbD 0 = false) ∧
    (let s := csrs (fun c => { c with mtvec := 0x80000201 }) s0
     s.unexpected = false ∧ s.csr.mtvec.getLsbD 1 = false ∧ s.csr.mtvec.getLsbD 0 = true) := by decide +kernel

theorem witness_EcallWithMdtIsCritical :
    let s := status (fun m => { m with mdt := true }) s0D
    s.cfg.ext.smdbltrp = true ∧ s.cfg.ext.smrnmi = false ∧ s.priv = .m ∧ s.csr.mstatus.mdt = true := by decide +kernel

theorem witness_CriticalErrorAbsorbs :
    let s := s0.setCriticalError true
    s.criticalError = true ∧ s.input.reset = none := by decide +kernel

theorem witness_NonMaskableInterrupt :
    (let s := given (fun p => { p with nmi := true }) (start { Cfg.ref with nmiImpl := true })
     let u := s.sampled s.input
     s.input.reset = none ∧ u.criticalError = false ∧ s.input.nmi = true ∧ u.cfg.nmiImpl = true ∧
      u.cfg.ext.smrnmi = false ∧ u.cfg.ext.smdbltrp = false ∧ u.cfg.mcycleStep = .one) ∧
    (let s := given (fun p => { p with nmi := true }) (status (fun m => { m with mdt := true })
      (start (withExt (fun e => { e with smdbltrp := true }) { Cfg.ref with nmiImpl := true })))
     let u := s.sampled s.input
     s.input.reset = none ∧ u.criticalError = false ∧ s.input.nmi = true ∧ u.cfg.nmiImpl = true ∧
      u.cfg.ext.smrnmi = false ∧ u.cfg.ext.smdbltrp = true ∧ u.csr.mstatus.mdt = true) := by decide +kernel

theorem witness_Mret : (mode .s s0S).priv ≠ .m ∧ s0.priv = .m := by decide +kernel

theorem witness_Sret : s0.hasS = false ∧ (mode .u s0S).priv = .u ∧
    ((mode .s (status (fun m => { m with tsr := true }) s0S)).priv = .s ∧
      (mode .s (status (fun m => { m with tsr := true }) s0S)).csr.mstatus.tsr = true) ∧
    (s0S.hasS = true ∧ s0S.priv = .m) ∧
    ((mode .s s0S).hasS = true ∧ (mode .s s0S).priv = .s ∧ (mode .s s0S).csr.mstatus.tsr = false) := by decide +kernel

theorem witness_Mnret : s0.cfg.ext.smrnmi = false ∧ (mode .u (s0N true)).priv ≠ .m ∧
    ((s0N false).cfg.ext.smrnmi = true ∧ (s0N false).priv = .m ∧ (s0N false).modeExists (s0N false).rnmi.mnpp = true) := by
  decide +kernel

theorem witness_ReturnTargetIsAligned : s0.priv = .m ∧ s0.extC = false ∧ (s0S.hasS = true ∧ s0S.priv = .m) ∧
    ((s0N true).cfg.ext.smrnmi = true ∧ (s0N true).priv = .m) := by decide +kernel

theorem witness_WaitForInterrupt :
    (s0I.priv = .m ∧ s0I.wake = true) ∧
    ((mode .s s0S).priv = .s ∧ (mode .s s0S).status.tw = false) ∧
    ((mode .u s0).priv = .u ∧ (mode .u s0).status.tw = false ∧ (mode .u s0).hasS = false ∧ (mode .u s0).cfg.wfiInU = true) ∧
    (let s := mode .u (start { Cfg.ref with wfiInU := false })
     s.priv = .u ∧ s.hasS = false ∧ s.cfg.wfiInU = false) ∧
    (let s := mode .u s0S
     s.priv ≠ .m ∧ s.hasS = true ∧ s.cfg.twLimit = 0) ∧
    (let s := mode .u (csrs (fun c => { c with mie := 0x80 }) (plat (fun p => { p with mtimecmp := 0 })
      (status (fun m => { m with tw := true }) (start { Cfg.ref with twLimit := 1 }))))
     s.priv ≠ .m ∧ s.status.tw = true ∧ s.cfg.twLimit ≠ 0 ∧ s.wfiAbsent = false ∧ s.wake = true) := by decide +kernel

/-- S0 stalled by a WFI, a timer interrupt pending, an instruction to fetch. -/
def s0W (mie : Bool) : State :=
  (ready 0x10500073 (status (fun m => { m with mie := mie }) s0I)).setWait { stalled := true, timer := none }

theorem witness_StalledHartResumes :
    (let u := (s0W true).sampled (s0W true).input
     (s0W true).input.reset = none ∧ u.criticalError = false ∧ u.nmiTaken (s0W true).input = false ∧
      u.wait = { stalled := true, timer := none } ∧ u.wake = true ∧ u.pendingInterrupt = some (false, 7) ∧
      u.unexpected = false) ∧
    (let s := (s0Del .u).setWait { stalled := true, timer := none }
     let u := s.sampled s.input
     s.input.reset = none ∧ u.criticalError = false ∧ u.nmiTaken s.input = false ∧
      u.wait = { stalled := true, timer := none } ∧ u.wake = true ∧ u.pendingInterrupt = some (true, 5) ∧
      u.status.sdt = false) ∧
    (let u := (s0W false).sampled (s0W false).input
     u.wait = { stalled := true, timer := none } ∧ u.wake = true ∧ u.pendingInterrupt = none ∧
      (s0W false).input.hwError = none ∧ u.fetch = .ok 0x10500073 ∧ decodeWord 0x10500073 = .ok .wfi) :=
  ⟨by decide +kernel, by decide +kernel, by decide +kernel, by decide +kernel, by decide +kernel, by decide +kernel,
    of_fetches (by decide +kernel), by decide⟩

theorem witness_SupervisorFences : s0.hasS = false ∧ (mode .u s0S).priv = .u ∧
    (let s := mode .s (status (fun m => { m with tvm := true }) s0S)
     s.priv = .s ∧ s.csr.mstatus.tvm = true) ∧
    s0S.cfg.ext.svinval = false ∧
    (let s := mode .s (start (withExt (fun e => { e with svinval := true }) Cfg.refS))
     s.hasS = true ∧ s.priv = .s ∧ s.csr.mstatus.tvm = false ∧ regExists s.features 0 = true ∧
      regExists s.features 31 = true ∧ s.cfg.ext.svinval = true) := by decide +kernel

theorem witness_FenceUnderFiom :
    (let s := mode .u (csrs (fun c => { c with menvcfg := { c.menvcfg with fiom := true } }) s0)
     s.priv ≠ .m ∧ s.envcfg.fiom = true) ∧
    (s0.priv = .m ∧ s0.envcfg.fiom = false) ∧
    (opcodeOf 0x0FF0000F = 0b0001111 ∧ funct3Of 0x0FF0000F = 0) := by decide +kernel

/-- S0 of a hart that defines every custom word of one row. -/
def s0X : State :=
  start { Cfg.ref with customWords := [{ funct6 := 0b100011, hiMask := 0, hi := 0, loMask := 0, lo := 0, units := [] }] }

theorem witness_CustomWords :
    ((Instr.custom100011 0 0).wellFormed s0.features = false ∧ s0.delegated 2 = false ∧ s0.unexpected = false) ∧
    ((Instr.custom100011 0x7FF 31).wellFormed s0X.features = true ∧ (Instr.custom110011 0 0).wellFormed s0X.features = false ∧
      ∀ r ∈ s0X.cfg.pma, r.coherent = true) := by decide +kernel

/-- A hart whose memory supports misaligned accesses of 8 bytes, in big-endian mode. -/
def s0B : State :=
  status (fun m => { m with mbe := true }) (start { Cfg.ref with
    mbeKind := .rw, misalignedKind := .perRegion, pma := [{ refMainMemory with misalignedWidths := [8] }] })

theorem witness_StoreWritesItsBytes :
    ((∀ a ∈ s0.accessAddrs 0x8000FFFF 1, deviceAt s0.cfg a = none) ∧
      s0.accessVerdict 0x8000FFFF 1 .write .plain = .pass) ∧
    ((∀ a ∈ s0.accessAddrs 0x80000000 8, deviceAt s0.cfg a = none) ∧
      s0.accessVerdict 0x80000000 8 .write .plain = .pass) ∧
    (s0B.bigEndian s0B.effPriv = true ∧ (∀ a ∈ s0B.accessAddrs 0x80000801 8, deviceAt s0B.cfg a = none) ∧
      s0B.accessVerdict 0x80000801 8 .write .plain = .pass) := by decide +kernel

/-- The store completes and the load that follows passes its checks. -/
def storeThenLoads (s : State) (ea v : Word) (n : Nat) : Bool :=
  match s.memWrite ea n v .plain with
  | .ok t => t.accessVerdict ea n .read .plain == .pass
  | _ => false

theorem of_storeThenLoads {s : State} {ea v : Word} {n : Nat} (h : storeThenLoads s ea v n = true) :
    ∃ t, s.memWrite ea n v .plain = .ok t ∧ t.accessVerdict ea n .read .plain = .pass := by
  unfold storeThenLoads at h
  cases e : s.memWrite ea n v .plain with
  | ok t => rw [e] at h; exact ⟨t, rfl, by simpa using h⟩
  | exc t c v => rw [e] at h; cases h
  | stop f => rw [e] at h; cases h

theorem witness_LoadAfterStore :
    ((∀ a ∈ s0.accessAddrs 0x8000FFFF 1, deviceAt s0.cfg a = none) ∧
      ∃ t, s0.memWrite 0x8000FFFF 1 0x1FF .plain = .ok t ∧ t.accessVerdict 0x8000FFFF 1 .read .plain = .pass) ∧
    ((∀ a ∈ s0B.accessAddrs 0x80000801 8, deviceAt s0B.cfg a = none) ∧
      ∃ t, s0B.memWrite 0x80000801 8 0x0123456789ABCDEF .plain = .ok t ∧
        t.accessVerdict 0x80000801 8 .read .plain = .pass) :=
  ⟨⟨by decide +kernel, of_storeThenLoads (by decide +kernel)⟩, by decide +kernel, of_storeThenLoads (by decide +kernel)⟩

theorem witness_MisalignedAccessRaises :
    (((s0.effAddr 0x0200BFF9).toNat % 4 ≠ 0 ∧
      (s0.accessAddrs 0x0200BFF9 4).find? (fun a => (deviceAt s0.cfg a).isSome) = some 0x0200BFF9) ∧
     ((s0.effAddr 0x02003FFD).toNat % 4 ≠ 0 ∧
      (s0.accessAddrs 0x02003FFD 4).find? (fun a => (deviceAt s0.cfg a).isSome) = some 0x02004000)) ∧
    s0.cfg.misalignedKind = .raiseMisaligned ∧ s0.cfg.misalignedFirst = true ∧
    ((s0.effAddr 0x80001001).toNat % 2 ≠ 0 ∧ (∀ a ∈ s0.accessAddrs 0x80001001 2, deviceAt s0.cfg a = none) ∧
      inGranule s0.cfg (s0.effAddr 0x80001001).toNat 2 = false) ∧
    ((s0.effAddr 0x80001007).toNat % 8 ≠ 0 ∧ (∀ a ∈ s0.accessAddrs 0x80001007 8, deviceAt s0.cfg a = none) ∧
      inGranule s0.cfg (s0.effAddr 0x80001007).toNat 8 = false) := by decide +kernel

/-- Entry 0 on four bytes, entry 1 on 32 KiB, both below M-mode's own rule (V50 of 95_test_vectors.md). -/
def s0P : State := entry 0 0x10 0x20000200 (entry 1 0x1F 0x20000FFF s0)

theorem witness_PmpCheck : s0P.seccfg.mml = false ∧ s0P.seccfg.mmwp = false ∧
    (start { Cfg.ref with pmpN := .none }).cfg.pmpN = .none ∧
    (s0P.cfg.pmpN ≠ .none ∧
      ∀ i, i < s0P.cfg.pmpN.num → ∀ b, 0x10000000 ≤ b → b < 0x10000000 + 8 → s0P.pmpMatches i b = false) ∧
    (∀ i, i < s0.cfg.pmpN.num → (s0.pmpEntry i).cfg.a = .off) ∧
    (s0P.pmpMatches 0 0x80000803 = true ∧ s0P.pmpMatches 0 0x80000804 = false) ∧
    ((∀ j, j < 1 → ∀ b, 0x80000804 ≤ b → b < 0x80000804 + 4 → s0P.pmpMatches j b = false) ∧
      ∀ b, 0x80000804 ≤ b → b < 0x80000804 + 4 → s0P.pmpMatches 1 b = true) := by decide +kernel

theorem witness_PmpTorRange : ((entry 0 0x0F 0x20000400 s0).pmpEntry 0).cfg.a = .tor ∧
    ((entry 15 0x8D 0x20000400 s0).pmpEntry 15).cfg.a = .tor ∧
    ((entry 1 0x0F 0x20000400 (start { Cfg.ref with pmpG := 3 })).pmpEntry 1).cfg.a = .tor := by decide +kernel

theorem witness_PmpNapotRange :
    (((entry 0 0x1F 0x20000000 s0).pmpEntry 0).cfg.a = .napot ∧
      ((entry 0 0x1F 0x20000000 s0).pmpaddrRead 0).toNat % 2 ^ (0 + 1) = 2 ^ 0 - 1) ∧
    (((entry 15 0x1F 0x003FFFFFFFFFFFFF s0).pmpEntry 15).cfg.a = .napot ∧
      ((entry 15 0x1F 0x003FFFFFFFFFFFFF s0).pmpaddrRead 15).toNat % 2 ^ (54 + 1) = 2 ^ 54 - 1) ∧
    ((s0P.pmpEntry 0).cfg.a = .na4 ∧ s0P.cfg.pmpG = 0) := by decide +kernel

/-- Entry 1 a locked TOR entry (V51d of 95_test_vectors.md). -/
def s0L : State := entry 1 0x89 0x20000C00 (entry 0 0 0x20000800 s0)

theorem witness_LockedPmpWritesIgnored : s0L.pmpLocked 1 = true ∧ 1 = 0 + 1 ∧ (s0L.pmpEntry 1).cfg.a = .tor := by
  decide +kernel

theorem witness_MachinePendingBits : s0I.cfg.zeroLag = true := by decide +kernel

theorem witness_LockedPmpEntriesStay : ∃ t, (ready 0x73 s0L).pmpLocked 1 = true ∧ (ready 0x73 s0L).input.reset = none ∧
    step (ready 0x73 s0L) = .next t := by
  obtain ⟨t, h⟩ := of_goesOn (o := step (ready 0x73 s0L)) (by decide +kernel)
  exact ⟨t, by decide +kernel, by decide +kernel, h⟩

/-- Smepmp with MML and MMWP set, and a locked rule that lets M-mode fetch and read. -/
def s0M : State :=
  ready 0x73 (entry 0 0x9D 0x20000FFF (csrs (fun c => { c with mseccfg := { c.mseccfg with mml := true, mmwp := true } })
    (start (withExt (fun e => { e with smepmp := true }) Cfg.ref))))

theorem witness_SmepmpBitsAreSticky : ∃ t, s0M.input.reset = none ∧ step s0M = .next t ∧ s0M.seccfg.mml = true ∧
    s0M.seccfg.mmwp = true := by
  obtain ⟨t, h⟩ := of_goesOn (o := step s0M) (by decide +kernel)
  exact ⟨t, by decide +kernel, h, by decide +kernel, by decide +kernel⟩

theorem witness_ResetLeaves : (given (fun p => { p with reset := some 1 }) s0).input.reset = some 1 ∧
    s0.cfg.pmpReset = [] := by decide +kernel

theorem witness_StepKeepsInvariant : ∃ t, (ready 0x73 s0).invariant = true ∧ step (ready 0x73 s0) = .next t := by
  obtain ⟨t, h⟩ := of_goesOn (o := step (ready 0x73 s0)) (by decide +kernel)
  exact ⟨t, by decide +kernel, h⟩

theorem witness_MemoryIsExtensional : Memory.wf [(0, 1), (0x8000FFFF, 0xFF)] = true ∧
    ∀ a, Memory.read [(0, 1), (0x8000FFFF, 0xFF)] a = Memory.read [(0, 1), (0x8000FFFF, 0xFF)] a :=
  ⟨by decide, fun _ => rfl⟩

theorem witness_UserModeCannotChangeMachineState : ∃ t, (ready 0x13 (mode .u s0)).priv = .u ∧
    step (ready 0x13 (mode .u s0)) = .next t ∧ t.priv = .u := by
  obtain ⟨t, h, e⟩ := of_after (o := step (ready 0x13 (mode .u s0))) (p := fun t => t.priv == .u) (by decide +kernel)
  exact ⟨t, by decide +kernel, h, by simpa using e⟩

theorem witness_PrivilegeFallsOnlyByReturn : ∃ t, step (ready 0x30200073 s0) = .next t ∧
    t.priv.code.toNat < (ready 0x30200073 s0).priv.code.toNat := by
  obtain ⟨t, h, e⟩ := of_after (o := step (ready 0x30200073 s0))
    (p := fun t => decide (t.priv.code.toNat < (ready 0x30200073 s0).priv.code.toNat)) (by decide +kernel)
  exact ⟨t, h, by simpa using e⟩

theorem witness_ReferenceHartNeverStops : State.reset.mayExtend = false ∧
    ∀ r ∈ State.reset.cfg.pma, r.coherent = true := by decide +kernel

end Sys2Proof.Tests
end

/-! SUPPORT. What the six CSR instructions do, said once (40_csr_access.md R365, R371), and the statements of
10_state.md. -/

namespace Sys2Proof.Machine

/-! ### Widths -/

/-- Sign-extending from XLEN looks at the low XLEN bits alone. -/
@[simp] theorem widen_narrow (mx x : Xlen) (v : Word) : widen mx x (narrow x v) = widen mx x v := by
  cases mx <;> cases x <;> simp [widen, narrow]

/-- The low bits of a value do not depend on the XLEN that it is cut to. -/
theorem setWidth_narrow {k : Nat} (hk : k ≤ 32) (x : Xlen) (v : Word) : (narrow x v).setWidth k = v.setWidth k := by
  cases x
  · simp [narrow, BitVec.setWidth_setWidth_of_le, hk, show k ≤ 64 by omega]
  · rfl

/-! ### Integer registers -/

theorem State.writeX_xAt_same (s : State) (xl : Xlen) (r : BitVec 5) (v : Word) :
    (s.writeX xl r v).xAt r = if r = 0 then 0 else widen s.cfg.mxlen xl v := by
  unfold State.xAt
  split
  · rfl
  · rename_i hr; simp only [State.writeX_x, if_neg hr, Vector.getElem_set_self]

theorem State.writeX_xAt_of_ne (s : State) (xl : Xlen) (rd : BitVec 5) (v : Word) (r : BitVec 5) (h : r ≠ rd) :
    (s.writeX xl rd v).xAt r = s.xAt r := by
  have hne : rd.toNat ≠ r.toNat := fun e => h (BitVec.eq_of_toNat_eq e.symm)
  unfold State.xAt
  split
  · rfl
  · rw [getElem_congr_coll (s.writeX_x xl rd v)]
    split
    · rfl
    · exact Vector.getElem_set_ne _ _ hne

/-- What an integer register reads as depends on `x` alone. -/
theorem State.xAt_congr {s t : State} (h : t.x = s.x) (r : BitVec 5) : t.xAt r = s.xAt r := by
  simp only [State.xAt, h]

/-! ### The forms of the CSR instructions -/

/-- What an instruction is as a use of a CSR: its register, its destination, and that only a form with `rd = x0` leaves
the register unread (40_csr_access.md R365). -/
structure CsrForm (s : State) (i : Instr) (rd : BitVec 5) (csr : BitVec 12) (u : CsrUse) : Prop where
  exec_eq : exec i s = .next (s.unlessReserved i (s.csrInstr u (encode i)))
  csr_eq : u.csr = csr
  rd_eq : u.rd = rd
  rd_zero : u.reads = false → rd = 0

theorem CsrOp.rd_zero_of_not_reads (o : CsrOp) (rd : BitVec 5) (h : o.readsCsr rd = false) : rd = 0 := by
  cases o
  · simpa [CsrOp.readsCsr] using h
  · cases h
  · cases h

theorem State.csrForm_register (s : State) (o : CsrOp) (rd a : BitVec 5) (csr : BitVec 12) (i : Instr)
    (h : exec i s = .next (s.unlessReserved i (s.csrInstr (s.registerUse o rd a csr) (encode i)))) :
    CsrForm s i rd csr (s.registerUse o rd a csr) :=
  ⟨h, rfl, rfl, o.rd_zero_of_not_reads rd⟩

theorem State.csrForm_immediate (s : State) (o : CsrOp) (rd a : BitVec 5) (csr : BitVec 12) (i : Instr)
    (h : exec i s = .next (s.unlessReserved i (s.csrInstr (immediateUse o rd a csr) (encode i)))) :
    CsrForm s i rd csr (immediateUse o rd a csr) :=
  ⟨h, rfl, rfl, o.rd_zero_of_not_reads rd⟩

/-- CSRRW writes `x[rs1]`, whatever its registers are. -/
theorem State.csrForm_csrrw (s : State) (rd rs1 : BitVec 5) (csr : BitVec 12) :
    CsrForm s (.csrrw rd rs1 csr) rd csr (s.registerUse .write rd rs1 csr) :=
  s.csrForm_register .write rd rs1 csr _ rfl

/-- CSRRWI writes its immediate, whatever its operands are. -/
theorem State.csrForm_csrrwi (s : State) (rd uimm : BitVec 5) (csr : BitVec 12) :
    CsrForm s (.csrrwi rd uimm csr) rd csr (immediateUse .write rd uimm csr) :=
  s.csrForm_immediate .write rd uimm csr _ rfl

/-- Each of the six CSR instructions is a use of its CSR, whose new value is `writtenValue` of the old one; with `a ≠ 0`
it writes (40_csr_access.md R365). -/
theorem State.csrForm_of_mem (s : State) {rd a : BitVec 5} {csr : BitVec 12} {i : Instr} (h : i ∈ csrForms rd a csr) :
    ∃ u, CsrForm s i rd csr u ∧ (a ≠ 0 → u.writes = true) ∧ ∀ old, u.op.apply old u.operand = writtenValue s old i := by
  have source (o : CsrOp) (ha : a ≠ 0) : o.writesCsr a = true := by
    cases o
    · rfl
    · exact bne_iff_ne.2 ha
    · exact bne_iff_ne.2 ha
  simp only [csrForms, registerForms, immediateForms, List.cons_append, List.nil_append, List.mem_cons,
    List.not_mem_nil, or_false] at h
  rcases h with rfl | rfl | rfl | rfl | rfl | rfl
  · exact ⟨_, s.csrForm_csrrw rd a csr, source .write, fun _ => rfl⟩
  · exact ⟨_, s.csrForm_register .set rd a csr _ rfl, source .set, fun _ => rfl⟩
  · exact ⟨_, s.csrForm_register .clear rd a csr _ rfl, source .clear, fun _ => rfl⟩
  · exact ⟨_, s.csrForm_csrrwi rd a csr, source .write, fun _ => rfl⟩
  · exact ⟨_, s.csrForm_immediate .set rd a csr _ rfl, source .set, fun _ => rfl⟩
  · exact ⟨_, s.csrForm_immediate .clear rd a csr _ rfl, source .clear, fun _ => rfl⟩

/-- A writing form writes `writtenValue`: CSRRW and CSRRWI always, the others with `a ≠ 0`. -/
theorem State.csrForm_of_mem_writingForms (s : State) {rd a : BitVec 5} {csr : BitVec 12} {i : Instr}
    (h : i ∈ writingForms rd a csr) :
    ∃ u, CsrForm s i rd csr u ∧ u.writes = true ∧ ∀ old, u.op.apply old u.operand = writtenValue s old i := by
  unfold writingForms at h
  split at h
  · simp only [List.mem_cons, List.not_mem_nil, or_false] at h
    rcases h with rfl | rfl
    · exact ⟨_, s.csrForm_csrrw rd a csr, rfl, fun _ => rfl⟩
    · exact ⟨_, s.csrForm_csrrwi rd a csr, rfl, fun _ => rfl⟩
  · rename_i ha
    obtain ⟨u, hu, hw, hv⟩ := s.csrForm_of_mem h
    exact ⟨u, hu, hw ha, hv⟩

/-! ### The checks -/

theorem State.csrAt_of_csrNamed (s : State) {a : BitVec 12} {n : CsrName} (h : csrNamed a = some n) :
    s.csrAt a = some n := by
  simp [State.csrAt, h]

/-- A CSR instruction whose checks fail is illegal, as is one whose registers do not exist. -/
theorem CsrForm.raisesIllegal {s : State} {i : Instr} {rd : BitVec 5} {csr : BitVec 12} {u : CsrUse} {n : CsrName}
    (h : CsrForm s i rd csr u) (hn : s.csrAt csr = some n) (ha : s.csrAllowed n csr u.writes = false) :
    raisesIllegal i s := by
  obtain ⟨hexec, rfl, rfl, -⟩ := h
  have hi : s.csrInstr u (encode i) = s.illegal (encode i) := by simp [State.csrInstr, hn, ha]
  rw [Machine.raisesIllegal, hexec, hi, State.unlessReserved, ite_self, State.illegal]

/-- A CSR instruction whose registers exist and whose checks pass is performed. -/
theorem CsrForm.performs {s : State} {i : Instr} {rd : BitVec 5} {csr : BitVec 12} {u : CsrUse} {n : CsrName}
    (h : CsrForm s i rd csr u) (hi : i.wellFormed s.features = true) (hn : s.csrAt csr = some n)
    (ha : s.csrAllowed n csr u.writes = true) : exec i s = .next (s.csrPerform u n) := by
  obtain ⟨hexec, rfl, rfl, -⟩ := h
  simp [hexec, State.unlessReserved, hi, State.csrInstr, hn, ha]

/-! ### What performing one leaves -/

/-- The state of a CSR instruction before `rd` and `pc` are written: counted, read and written. -/
def State.csrTouched (s : State) (u : CsrUse) (n : CsrName) : State :=
  s.csrAfterWrite u n ((s.countRetired (u.skips n)).csrAfterRead u n)

theorem State.csrPerform_eq (s : State) (u : CsrUse) (n : CsrName) :
    s.csrPerform u n = ((if u.reads then (s.csrTouched u n).writeX s.xlen u.rd (s.csrValue n) else s.csrTouched u n).setPc
      (widen s.cfg.mxlen s.xlen (s.pc + 4))) := rfl

@[simp] theorem State.csrPerform_pc (s : State) (u : CsrUse) (n : CsrName) :
    (s.csrPerform u n).pc = widen s.cfg.mxlen s.xlen (s.pc + 4) := rfl

@[simp] theorem State.csrPerform_csr (s : State) (u : CsrUse) (n : CsrName) :
    (s.csrPerform u n).csr = (s.csrTouched u n).csr := by
  rw [State.csrPerform_eq]
  split <;> simp

@[simp] theorem State.csrPerform_cnt (s : State) (u : CsrUse) (n : CsrName) :
    (s.csrPerform u n).cnt = (s.csrTouched u n).cnt := by
  rw [State.csrPerform_eq]
  split <;> simp

@[simp] theorem State.csrAfterRead_cfg (s : State) (u : CsrUse) (n : CsrName) : (s.csrAfterRead u n).cfg = s.cfg := by
  unfold State.csrAfterRead; split <;> simp

@[simp] theorem State.csrAfterRead_x (s : State) (u : CsrUse) (n : CsrName) : (s.csrAfterRead u n).x = s.x := by
  unfold State.csrAfterRead; split <;> simp

@[simp] theorem State.csrAfterRead_cnt (s : State) (u : CsrUse) (n : CsrName) : (s.csrAfterRead u n).cnt = s.cnt := by
  unfold State.csrAfterRead; split <;> simp

@[simp] theorem State.csrTouched_cfg (s : State) (u : CsrUse) (n : CsrName) : (s.csrTouched u n).cfg = s.cfg := by
  unfold State.csrTouched State.csrAfterWrite; split <;> simp

/-- `rd` takes the old value of the register (40_csr_access.md R371). -/
theorem State.csrPerform_xAt_rd (s : State) (u : CsrUse) (n : CsrName) (h : u.reads = false → u.rd = 0) :
    (s.csrPerform u n).xAt u.rd = rdValue s u.rd (s.csrRead n) := by
  rw [State.csrPerform_eq]
  split
  · calc (((s.csrTouched u n).writeX s.xlen u.rd (s.csrValue n)).setPc _).xAt u.rd
        = ((s.csrTouched u n).writeX s.xlen u.rd (s.csrValue n)).xAt u.rd := rfl
      _ = rdValue s u.rd (s.csrRead n) := by simp [State.writeX_xAt_same, rdValue, State.csrValue]
  · rename_i hr
    simp [State.xAt, rdValue, h (by simpa using hr)]

/-- A CSR instruction changes no integer register but `rd`, one that writes `misa` apart (10_state.md R39). -/
theorem State.csrPerform_sameXBut (s : State) (u : CsrUse) (n : CsrName) (hn : n ≠ .misa) :
    sameXBut u.rd s (s.csrPerform u n) := by
  intro r hr
  have touched : (s.csrTouched u n).x = s.x := by
    unfold State.csrTouched State.csrAfterWrite
    split <;> simp [State.csrWrite_x _ _ _ hn]
  rw [State.csrPerform_eq]
  split
  · exact ((s.csrTouched u n).writeX_xAt_of_ne _ _ _ _ hr).trans (State.xAt_congr touched r)
  · exact State.xAt_congr touched r

/-- A CSR write changes `minstret` only where it is addressed. -/
theorem State.csrWrite_minstret (s : State) (w : Word) (n : CsrName) (h : counterWritten n ≠ some .instret) :
    (s.csrWrite w n).cnt.minstret = s.cnt.minstret := by
  cases n
  case counter k high =>
    have hk : k ≠ 2 := fun e => h (by simp [counterWritten, e])
    simp only [State.csrWrite, State.writeCounter, hk, if_false]
    repeat' split
    all_goals rfl
  case mhpmevent k high =>
    simp only [State.csrWrite, State.writeHpmevent]
    repeat' split
    all_goals rfl
  case mtval => simp only [State.csrWrite]; split <;> rfl
  case satp => simp only [State.csrWrite]; split <;> rfl
  all_goals simp [State.csrWrite, State.pmpcfgWrite, State.writeMipBits, State.writeF, State.writeV, State.setMstatus]

/-- A CSR instruction retires, one that writes `minstret` apart (11_state_trap_csrs.md R126, R128). -/
theorem State.csrPerform_retired4 (s : State) (u : CsrUse) (n : CsrName) (h : counterWritten n ≠ some .instret) :
    retired4 s (s.csrPerform u n) := by
  have hskip : u.skips n ≠ some .instret := by
    unfold CsrUse.skips
    split
    · exact h
    · simp
  have touched : (s.csrTouched u n).cnt.minstret = s.nextMinstret (u.skips n) := by
    unfold State.csrTouched State.csrAfterWrite
    split
    · rw [State.csrWrite_minstret _ _ _ h]; simp
    · simp
  refine ⟨rfl, ?_⟩
  rw [counted, State.csrPerform_cnt, touched]
  simp [State.nextMinstret, hskip]

/-! ### `MDT` and `MIE` (10_state.md R72) -/

/-- A write that reaches `MDT` stores its bit, any other keeps it. -/
theorem State.statusWrite_mdt (s : State) (mask w : Word) (h : s.cfg.ext.smdbltrp = true) :
    (s.statusWrite mask w).mdt = if mask.getLsbD 42 then w.getLsbD 42 else s.csr.mstatus.mdt := by
  simp [State.statusWrite, State.status, h]

/-- A write that reaches `MIE` or `MDT` sets `MIE` only where `MDT` is 0 after it. -/
theorem State.statusWrite_mie (s : State) (mask w : Word) (h : (mask.getLsbD 3 || mask.getLsbD 42) = true) :
    (s.statusWrite mask w).mie =
      ((if mask.getLsbD 3 then w.getLsbD 3 else s.csr.mstatus.mie) && !(s.statusWrite mask w).mdt) := by
  simp only [State.statusWrite, h, if_true]
  rfl

/-- Settles O22: `mstatus` reaches `MIE`, and `MDT` with it on RV64 alone; `mstatush` reaches `MDT`, at bit 10. -/
theorem mdtClearsMie : Obligations.MdtClearsMie := by
  refine ⟨fun c => Bool.and_true _, fun s w hd => ⟨fun hx => ?_, fun hx => ?_⟩⟩
  · have low : (s.csrWrite w .mstatus).csr.mstatus = s.statusWrite (lowMask .x64) w := by rw [State.csrWrite, hx]; rfl
    have mdt : (s.statusWrite (lowMask .x64) w).mdt = w.getLsbD 42 := s.statusWrite_mdt _ w hd
    have mie := s.statusWrite_mie (lowMask .x64) w (by decide)
    rw [mdt] at mie
    rw [low]
    exact ⟨mdt, mie⟩
  · have low : (s.csrWrite w .mstatus).csr.mstatus = s.statusWrite (lowMask .x32) w := by rw [State.csrWrite, hx]; rfl
    have high : (s.csrWrite w .mstatush).csr.mstatus = s.statusWrite highMask (w <<< 32) := rfl
    have mdtLow : (s.statusWrite (lowMask .x32) w).mdt = s.csr.mstatus.mdt := s.statusWrite_mdt _ w hd
    have mdtHigh : (s.statusWrite highMask (w <<< 32)).mdt = w.getLsbD 10 :=
      (s.statusWrite_mdt _ _ hd).trans (by simp [highMask])
    have mieLow := s.statusWrite_mie (lowMask .x32) w (by decide)
    have mieHigh := s.statusWrite_mie highMask (w <<< 32) (by decide)
    rw [mdtLow] at mieLow
    rw [mdtHigh] at mieHigh
    rw [low, high]
    exact ⟨mdtLow, mieLow, mdtHigh, mieHigh⟩

/-! ### `misa` (10_state.md R38) -/

/-- A write of `misa` where the register exists: suppressed whole, or the legal value. -/
theorem State.writeMisa_misa (s : State) (w : Word) (hi : s.cfg.misaImpl = true) :
    (s.writeMisa w).csr.misa =
      if s.misaSuppressed (s.legalizeMisa (w.setWidth 26)) then s.csr.misa else s.legalizeMisa (w.setWidth 26) := by
  simp only [State.writeMisa, hi, Bool.not_true, Bool.false_or]
  split <;> rfl

/-- What suppresses a write of `misa`, where the register exists. -/
theorem State.misaSuppressed_iff (s : State) (v : BitVec 26) (hi : s.cfg.misaImpl = true) :
    s.misaSuppressed v = true ↔ v.getLsbD 2 = false ∧ s.csr.misa.getLsbD 2 = true ∧ (s.pc + 4).getLsbD 1 = true := by
  simp only [State.misaSuppressed, State.extC, State.letter, hi, if_true, Bool.and_eq_true, Bool.not_eq_true']
  tauto

@[simp] theorem State.countRetired_legalizeMisa (s : State) (skip : Option CounterSel) (w : BitVec 26) :
    (s.countRetired skip).legalizeMisa w = s.legalizeMisa w := by
  obtain ⟨n, l, h⟩ := s.countRetired_cases skip
  rw [h]; rfl

/-- `misa` after a CSR instruction that writes it. -/
theorem State.csrPerform_misa (s : State) (u : CsrUse) (hi : s.cfg.misaImpl = true) (hw : u.writes = true) (w : BitVec 26)
    (e : (narrow s.xlen (u.op.apply (s.csrRmw .misa) u.operand)).setWidth 26 = w) :
    (s.csrPerform u .misa).csr.misa =
      if (s.legalizeMisa w).getLsbD 2 = false ∧ s.csr.misa.getLsbD 2 = true ∧ (s.pc + 4).getLsbD 1 = true then s.csr.misa
      else s.legalizeMisa w := by
  have hread (q : State) : q.csrAfterRead u .misa = q := ite_self q
  rw [State.csrPerform_csr, State.csrTouched, hread, State.csrAfterWrite, if_pos hw, State.csrWrite,
    State.writeMisa_misa _ _ (by simpa using hi), e]
  simp only [State.misaSuppressed_iff, State.countRetired_cfg, hi, State.countRetired_legalizeMisa, State.countRetired_misa,
    State.countRetired_pc]

/-- The low bits of what a form writes do not depend on how its old value was cut to XLEN bits. -/
theorem writtenValue_setWidth_congr {k : Nat} (s : State) (i : Instr) (a b : Word) (h : a.setWidth k = b.setWidth k) :
    (writtenValue s a i).setWidth k = (writtenValue s b i).setWidth k := by
  cases i <;> simp [writtenValue, BitVec.setWidth_or, BitVec.setWidth_and, h]

/-- Settles O25: the write is performed on the state in which the instruction counted, where `misa`, `pc` and the legaliser
are those of the state before it. -/
theorem misaWriteSuppressed : Obligations.MisaWriteSuppressed := by
  intro s rd a i w hm hi hmem hwf hw
  obtain ⟨u, hu, hwrites, hval⟩ := s.csrForm_of_mem_writingForms hmem
  have hallowed : s.csrAllowed .misa 0x301 u.writes = true := by
    simp [State.csrAllowed, State.csrExists, State.privAllows, hm, Priv.code, csrReadOnly, State.csrSpecial]
  have hexec := hu.performs hwf (s.csrAt_of_csrNamed (by decide)) hallowed
  have hbits : (narrow s.xlen (u.op.apply (s.csrRmw .misa) u.operand)).setWidth 26 = w := by
    rw [hw, setWidth_narrow (by omega), hval]
    exact writtenValue_setWidth_congr s i _ _ (setWidth_narrow (by omega) _ _)
  obtain rfl := hu.rd_eq
  exact ⟨_, hexec, s.csrPerform_retired4 u .misa (by simp [counterWritten]), s.csrPerform_xAt_rd u .misa hu.rd_zero,
    s.csrPerform_misa u hi hwrites w hbits⟩

/-! ### The floating-point CSRs (10_state.md R67, R68; log entry 15) -/

/-- The CSRs that are bits of `fcsr`. -/
def CsrName.isFloat (n : CsrName) : Prop := n = .fflags ∨ n = .frm ∨ n = .fcsr

/-- `fcsr` after a write of one of them: bits 4:0 are `fflags`, bits 7:5 `frm`. -/
def fcsrWith (old : BitVec 8) (w : Word) : CsrName → BitVec 8
  | .fflags => old &&& 0xE0 ||| (w.setWidth 8 &&& 0x1F)
  | .frm => old &&& 0x1F ||| (w.setWidth 8 <<< 5)
  | _ => w.setWidth 8

theorem State.csrWrite_float (s : State) (w : Word) {n : CsrName} (h : n.isFloat) :
    s.csrWrite w n = s.writeF (fcsrWith s.units.fcsr w n) := by
  rcases h with rfl | rfl | rfl <;> rfl

theorem State.noteRead_float (s : State) {n : CsrName} (h : n.isFloat) :
    s.noteRead n = s.setMstatus { s.csr.mstatus with fs := s.contextAfterRead s.cfg.fsKind s.csr.mstatus.fs } := by
  rcases h with rfl | rfl | rfl <;> rfl

/-- What is written depends on the low 8 bits alone. -/
theorem fcsrWith_narrow (old : BitVec 8) (x : Xlen) (w : Word) (n : CsrName) :
    fcsrWith old (narrow x w) n = fcsrWith old w n := by
  have low : (narrow x w).setWidth 8 = w.setWidth 8 := setWidth_narrow (by omega) x w
  unfold fcsrWith
  rw [low]

/-- The floating-point CSRs can be accessed in every mode just if F is there and FS is not Off. -/
theorem State.csrAllowed_float (s : State) {n : CsrName} (h : n.isFloat) (a : BitVec 12) (ha : a = 1 ∨ a = 2 ∨ a = 3)
    (writes : Bool) : s.csrAllowed n a writes = (s.extF && s.status.fs != 0) := by
  have anyMode : s.privAllows a = true := by rcases ha with rfl | rfl | rfl <;> simp [State.privAllows]
  have readWrite : csrReadOnly a = false := by rcases ha with rfl | rfl | rfl <;> rfl
  have unit : s.csrExists n = s.extF ∧ s.csrSpecial writes n = (s.status.fs != 0) := by
    rcases h with rfl | rfl | rfl <;> exact ⟨rfl, rfl⟩
  simp [State.csrAllowed, anyMode, readWrite, unit]

/-- Counting and reading before the write of a floating-point CSR change counters, `mip.LCOFIP` and FS alone. -/
theorem State.csrAfterRead_float (s : State) (u : CsrUse) {n : CsrName} (h : n.isFloat) (skip : Option CounterSel) :
    ∃ c l f, (s.countRetired skip).csrAfterRead u n =
      (s.setCnt c).setCsr { s.csr with mstatus := { s.csr.mstatus with fs := f }, lcofip := l } := by
  obtain ⟨c, l, e⟩ := s.countRetired_cases skip
  rw [e]
  unfold State.csrAfterRead
  split
  · rw [State.noteRead_float _ h]; exact ⟨_, _, _, rfl⟩
  · exact ⟨_, _, s.csr.mstatus.fs, rfl⟩

/-- The effect of a CSR instruction that writes a floating-point CSR. -/
theorem State.csrPerform_floatEffect (s : State) (u : CsrUse) {n : CsrName} (h : n.isFloat) (hw : u.writes = true)
    (hr : u.reads = false → u.rd = 0) :
    floatEffect s (s.csrPerform u n) u.rd (fcsrWith s.units.fcsr (u.op.apply (s.csrRmw n) u.operand) n) (s.csrRead n) := by
  obtain ⟨c, l, f, e⟩ := s.csrAfterRead_float u h (u.skips n)
  have touched : s.csrTouched u n = ((s.setCnt c).setCsr
      { s.csr with mstatus := { s.csr.mstatus with fs := f }, lcofip := l }).writeF
        (fcsrWith s.units.fcsr (u.op.apply (s.csrRmw n) u.operand) n) := by
    rw [State.csrTouched, e, State.csrAfterWrite, if_pos hw, State.csrWrite_float _ _ h, fcsrWith_narrow]
    rfl
  refine ⟨?_, fun hne => ?_, s.csrPerform_xAt_rd u n hr, s.csrPerform_sameXBut u n ?_, s.csrPerform_retired4 u n ?_⟩
  · rw [State.csrPerform_eq, touched, State.writeX]
    repeat' split
    all_goals rfl
  · have changed : (fcsrWith s.units.fcsr (u.op.apply (s.csrRmw n) u.operand) n != s.units.fcsr) = true := bne_iff_ne.2 hne
    rw [State.csrPerform_csr, touched]
    simp [State.writeF, State.setMstatus, State.contextAfterWrite, changed]
  · rcases h with rfl | rfl | rfl <;> simp
  · rcases h with rfl | rfl | rfl <;> simp [counterWritten]

/-- The addresses of the floating-point CSRs. -/
theorem csrNamed_float (a : BitVec 12) (h : a = 1 ∨ a = 2 ∨ a = 3) : ∃ n : CsrName, n.isFloat ∧ csrNamed a = some n := by
  rcases h with rfl | rfl | rfl
  · exact ⟨.fflags, .inl rfl, by decide⟩
  · exact ⟨.frm, .inr (.inl rfl), by decide⟩
  · exact ⟨.fcsr, .inr (.inr rfl), by decide⟩

/-- Where F is there and FS is not Off, CSRRW of a floating-point CSR has that effect. -/
theorem State.csrrw_floatEffect (s : State) (rd rs1 : BitVec 5) (a : BitVec 12) {n : CsrName} (h : n.isFloat)
    (ha : a = 1 ∨ a = 2 ∨ a = 3) (hn : csrNamed a = some n) (hF : s.extF = true) (hfs : s.status.fs ≠ 0)
    (hrd : regExists s.features rd = true) (hrs1 : regExists s.features rs1 = true) :
    ∃ t, exec (.csrrw rd rs1 a) s = .next t ∧
      floatEffect s t rd (fcsrWith s.units.fcsr (s.readX rs1) n) (s.csrRead n) := by
  have form := s.csrForm_csrrw rd rs1 a
  have wf : (Instr.csrrw rd rs1 a).wellFormed s.features = true := by simp [Instr.wellFormed, hrd, hrs1]
  have allowed : s.csrAllowed n a true = true := by
    rw [s.csrAllowed_float h a ha, hF, Bool.true_and]
    exact bne_iff_ne.2 hfs
  exact ⟨_, form.performs wf (s.csrAt_of_csrNamed hn) allowed,
    s.csrPerform_floatEffect (s.registerUse .write rd rs1 a) h rfl form.rd_zero⟩

/-- Settles O26: off, the checks of all forms fail alike; on, the three CSRRW are one lemma at three registers. -/
theorem floatCsrAccess : Obligations.FloatCsrAccess := by
  intro s rd rs1
  refine ⟨fun csr i ha hmem hoff => ?_, fun hF hfs hrd hrs1 => ⟨?_, ?_, ?_⟩⟩
  · obtain ⟨n, hn, hnamed⟩ := csrNamed_float csr ha
    obtain ⟨u, hu, -, -⟩ := s.csrForm_of_mem hmem
    refine hu.raisesIllegal (s.csrAt_of_csrNamed hnamed) ?_
    rw [s.csrAllowed_float hn csr ha]
    rcases hoff with h | h <;> simp [h]
  · exact s.csrrw_floatEffect rd rs1 1 (n := .fflags) (.inl rfl) (.inl rfl) (by decide) hF hfs hrd hrs1
  · exact s.csrrw_floatEffect rd rs1 2 (n := .frm) (.inr (.inl rfl)) (.inr (.inl rfl)) (by decide) hF hfs hrd hrs1
  · exact s.csrrw_floatEffect rd rs1 3 (n := .fcsr) (.inr (.inr rfl)) (.inr (.inr rfl)) (by decide) hF hfs hrd hrs1

end Sys2Proof.Machine

/-! SUPPORT. The trap-setup and counter CSRs (11_state_trap_csrs.md): what their writes store, and the statements of that
chapter. -/

namespace Sys2Proof.Machine

/-! ### Bits of values -/

@[simp] theorem narrow_narrow (x : Xlen) (v : Word) : narrow x (narrow x v) = narrow x v := by
  cases x <;> simp [narrow]

/-- Masking a value and cutting it to XLEN bits commute. -/
theorem narrow_and (x : Xlen) (v m : Word) : narrow x (v &&& m) = narrow x v &&& m := by
  cases x
  · ext i hi
    by_cases low : i < 32 <;> simp [narrow, BitVec.getElem_setWidth, BitVec.getLsbD_eq_getElem, hi, low]
  · rfl

/-- The bits below 32 do not depend on the XLEN that a value is cut to. -/
theorem getLsbD_narrow (x : Xlen) (v : Word) {i : Nat} (h : i < 32) : (narrow x v).getLsbD i = v.getLsbD i := by
  cases x
  · simp [narrow, h, show i < 64 by omega]
  · rfl

/-- The bits below 32 do not depend on the XLEN that a value is sign-extended from. -/
theorem getLsbD_widen (mx x : Xlen) (v : Word) {i : Nat} (h : i < 32) : (widen mx x v).getLsbD i = v.getLsbD i := by
  have h64 : i < 64 := by omega
  cases mx
  · exact getLsbD_narrow .x32 v h
  · cases x
    · rw [widen, BitVec.getLsbD_signExtend]
      simp [h, h64]
    · rfl

theorem getLsbD_flag (b : Bool) (i j : Nat) (h : j < 64) : (flag b i).getLsbD j = (b && decide (j = i)) := by
  simp [flag, h]
  grind

@[simp] theorem State.narrow_readX (s : State) (r : BitVec 5) : narrow s.xlen (s.readX r) = s.readX r := by
  unfold State.readX
  split
  · cases s.xlen <;> rfl
  · simp


/-! ### The trap target (R101, R103) -/

/-- Only an interrupt in Vectored mode goes elsewhere than to BASE. -/
theorem trapTarget_base (x : Xlen) (tvec : Word) (isInt : Bool) (code : Nat) (h : tvec.getLsbD 0 = false ∨ isInt = false) :
    trapTarget x tvec isInt code = tvec &&& ~~~3#64 := by
  refine if_neg fun ⟨mode, int⟩ => ?_
  have low : (pairAt tvec 0).getLsbD 0 = tvec.getLsbD 0 := by simp [pairAt]
  rcases h with h | h
  · rw [mode, h] at low; cases low
  · rw [int] at h; cases h

/-- An interrupt in Vectored mode goes to BASE plus four times its cause. -/
theorem trapTarget_vectored (x : Xlen) (tvec : Word) (code : Nat) (h1 : tvec.getLsbD 1 = false)
    (h0 : tvec.getLsbD 0 = true) : trapTarget x tvec true code = narrow x ((tvec &&& ~~~3#64) + 4 * BitVec.ofNat 64 code) := by
  have mode : pairAt tvec 0 = 1 := by
    ext i hi
    interval_cases i <;> simp_all [pairAt, BitVec.getLsbD_eq_getElem]
  have offset : BitVec.ofNat 64 (4 * code) = 4 * BitVec.ofNat 64 code := by simp [BitVec.ofNat_mul]
  rw [trapTarget, if_pos ⟨mode, rfl⟩, offset]

/-- Settles O31: a trap that is not unexpected enters M-mode at its target. -/
theorem vectoredTrapTarget : Obligations.VectoredTrapTarget := by
  intro s isInt code tval hu
  have entered (i : Bool) (c : Nat) : (s.trapM i c tval).pc = trapTarget s.cfg.mxlen s.csr.mtvec i c := by
    rw [State.trapM, hu]; rfl
  refine ⟨fun h => ?_, fun h1 h0 => ⟨?_, ?_⟩⟩
  · rw [entered, trapTarget_base _ _ _ _ h]
  · rw [entered, trapTarget_vectored _ _ _ h1 h0]
  · rw [entered, trapTarget_vectored _ _ _ h1 h0]; rfl

/-! ### The register forms in M-mode -/

/-- The CSR instruction that takes its operand from a register. -/
def CsrOp.registerForm (o : CsrOp) (rd rs1 : BitVec 5) (csr : BitVec 12) : Instr :=
  match o with
  | .write => .csrrw rd rs1 csr
  | .set => .csrrs rd rs1 csr
  | .clear => .csrrc rd rs1 csr

theorem State.csrForm_registerForm (s : State) (o : CsrOp) (rd rs1 : BitVec 5) (csr : BitVec 12) :
    CsrForm s (o.registerForm rd rs1 csr) rd csr (s.registerUse o rd rs1 csr) :=
  s.csrForm_register o rd rs1 csr _ (by cases o <;> rfl)

/-- In M-mode every address passes the privilege check (40_csr_access.md R369). -/
theorem State.privAllows_m (s : State) (a : BitVec 12) (h : s.priv = .m) : s.privAllows a = true := by
  have fits := (a.extractLsb' 8 2).isLt
  simp only [State.privAllows, h, Priv.code, decide_eq_true_eq]
  exact Nat.le_of_lt_succ fits

theorem State.xlen_m (s : State) (h : s.priv = .m) : s.xlen = s.cfg.mxlen := by rw [State.xlen, h]; rfl

/-- In M-mode a register form is performed on a register that exists, may be written and has no check of its own. -/
theorem State.registerForm_performs (s : State) (o : CsrOp) (rd rs1 : BitVec 5) {a : BitVec 12} {n : CsrName}
    (hm : s.priv = .m) (hn : csrNamed a = some n) (ha : csrReadOnly a = false) (he : s.csrExists n = true)
    (hs : ∀ w, s.csrSpecial w n = true) (hrd : regExists s.features rd = true) (hrs1 : regExists s.features rs1 = true) :
    exec (o.registerForm rd rs1 a) s = .next (s.csrPerform (s.registerUse o rd rs1 a) n) := by
  have wf : (o.registerForm rd rs1 a).wellFormed s.features = true := by
    cases o <;> simp [CsrOp.registerForm, Instr.wellFormed, hrd, hrs1]
  exact (s.csrForm_registerForm o rd rs1 a).performs wf (s.csrAt_of_csrNamed hn)
    (by simp [State.csrAllowed, he, s.privAllows_m a hm, ha, hs])

/-! ### What a CSR instruction leaves unchanged -/

/-- What the bytes read as depends on the configuration, the platform and memory. -/
theorem State.byteAt_congr {s t : State} (hc : t.cfg = s.cfg) (hp : t.plat = s.plat) (hm : t.mem = s.mem) (a : Nat) :
    t.byteAt a = s.byteAt a := by
  have device (d : DeviceReg) : t.deviceValue d = s.deviceValue d := by cases d <;> simp only [State.deviceValue, hp]
  simp only [State.byteAt, State.physRead, hc, hm, device]

/-- No CSR instruction stores. -/
theorem State.csrPerform_sameBytes (s : State) (u : CsrUse) (n : CsrName) : sameBytes s (s.csrPerform u n) :=
  State.byteAt_congr (by simp) (by simp) (by simp)

/-- A CSR instruction whose counting, reading and writing change the counters and machine-level registers alone leaves the
rest. -/
theorem State.csrPerform_sameRest (s : State) (u : CsrUse) (n : CsrName) {k : Counters} {c : Csrs}
    (h : s.csrTouched u n = (s.setCnt k).setCsr c) : sameRest s (s.csrPerform u n) := by
  rw [State.csrPerform_eq, h, State.writeX]
  split
  · split <;> exact ⟨⟨rfl, rfl, rfl, rfl, rfl, rfl, rfl, rfl⟩, rfl, rfl⟩
  · exact ⟨⟨rfl, rfl, rfl, rfl, rfl, rfl, rfl, rfl⟩, rfl, rfl⟩

/-- Where a read leaves no trace, a writing form writes the state in which the instruction counted. -/
theorem State.csrTouched_writes (s : State) (u : CsrUse) (n : CsrName) (hw : u.writes = true)
    (hr : ∀ q : State, q.noteRead n = q) :
    s.csrTouched u n =
      (s.countRetired (counterWritten n)).csrWrite (narrow s.xlen (u.op.apply (s.csrRmw n) u.operand)) n := by
  have read (q : State) : q.csrAfterRead u n = q := by rw [State.csrAfterRead, hr, ite_self]
  rw [State.csrTouched, read, State.csrAfterWrite, if_pos hw, CsrUse.skips, if_pos hw]

/-- CSRRW writes `x[rs1]`. -/
theorem State.csrTouched_csrrw (s : State) (rd rs1 : BitVec 5) (a : BitVec 12) (n : CsrName)
    (hr : ∀ q : State, q.noteRead n = q) :
    s.csrTouched (s.registerUse .write rd rs1 a) n = (s.countRetired (counterWritten n)).csrWrite (s.readX rs1) n := by
  rw [s.csrTouched_writes _ n rfl hr]
  exact congrArg (State.csrWrite _ · n) (s.narrow_readX rs1)

/-! ### `mcycle` and `minstret` (R125 to R128) -/

/-- A write of `mcycle` or `minstret` with MXLEN=64 leaves the written value and changes counters alone. -/
theorem State.csrWrite_counter (s : State) (w : Word) (b : Nat) (hb : b = 0 ∨ b = 2) (hx : s.cfg.mxlen = .x64) :
    ∃ k, s.csrWrite w (.counter b false) = s.setCnt k ∧ (s.setCnt k).counterValue b = w := by
  have whole (old : Word) : writePart s.cfg.mxlen false old w = w := by rw [hx]; rfl
  rcases hb with rfl | rfl
  · exact ⟨_, rfl, whole _⟩
  · exact ⟨_, rfl, whole _⟩

/-- Of the machine-level registers `mip.LCOFIP` alone is changed by counting. -/
theorem sameCsrs_of_lcofip {s t : State} {l : Bool} (h : t.csr = { s.csr with lcofip := l }) : sameCsrs s t := by
  unfold sameCsrs
  rw [h]
  exact ⟨rfl, rfl, rfl, rfl, rfl, rfl, rfl, rfl, rfl, rfl, rfl, rfl, rfl, rfl⟩

/-- A CSRRW of `mcycle` or `minstret` leaves the written value, uncounted, and the value before in `rd` (R128). -/
theorem State.csrrw_counter (s : State) (rd rs1 : BitVec 5) (a : BitVec 12) (b : Nat) (hm : s.priv = .m)
    (hx : s.cfg.mxlen = .x64) (hb : b = 0 ∨ b = 2) (hn : csrNamed a = some (.counter b false)) (ha : csrReadOnly a = false)
    (hrd : regExists s.features rd = true) (hrs1 : regExists s.features rs1 = true) :
    ∃ t, exec (.csrrw rd rs1 a) s = .next t ∧ t.counterValue b = s.readX rs1 ∧ (b = 0 → counted s t) ∧
      t.xAt rd = rdValue s rd (s.counterValue b) ∧ sameXBut rd s t ∧ sameBytes s t ∧ sameRest s t ∧ sameCsrs s t := by
  have performs := s.registerForm_performs .write rd rs1 hm hn ha rfl (fun _ => rfl) hrd hrs1
  obtain ⟨c, l, counts⟩ := s.countRetired_cases (counterWritten (.counter b false))
  obtain ⟨k, writes, value⟩ := State.csrWrite_counter (s.countRetired (counterWritten (.counter b false))) (s.readX rs1) b hb
    (by simpa)
  have touched := (s.csrTouched_csrrw rd rs1 a (.counter b false) (fun _ => rfl)).trans writes
  rw [counts] at touched
  refine ⟨_, performs, ?_, fun h0 => ?_, s.csrPerform_xAt_rd _ _ (s.csrForm_csrrw rd rs1 a).rd_zero,
    s.csrPerform_sameXBut (s.registerUse .write rd rs1 a) (.counter b false) (by simp), s.csrPerform_sameBytes _ _,
    s.csrPerform_sameRest _ _ (k := k) touched, ?_⟩
  · have cnt : (s.csrPerform (s.registerUse .write rd rs1 a) (.counter b false)).cnt = k := by
      rw [State.csrPerform_cnt, touched]; rfl
    rcases hb with rfl | rfl
    · exact (congrArg Counters.mcycle cnt).trans value
    · exact (congrArg Counters.minstret cnt).trans value
  · exact (s.csrPerform_retired4 _ _ (by simp [counterWritten, h0])).2
  · exact sameCsrs_of_lcofip (l := l) (by rw [State.csrPerform_csr, touched]; rfl)

/-- Settles O20: both registers are one lemma at two counters. -/
theorem counterWriteWins : Obligations.CounterWriteWins := by
  intro s rd rs1 hm hx hrd hrs1
  obtain ⟨t, ht, value, -, rest⟩ := s.csrrw_counter rd rs1 0xB02 2 hm hx (.inr rfl) (by decide) (by decide) hrd hrs1
  obtain ⟨t', ht', value', counts, rest'⟩ := s.csrrw_counter rd rs1 0xB00 0 hm hx (.inl rfl) (by decide) (by decide) hrd hrs1
  exact ⟨⟨t, ht, value, rest⟩, ⟨t', ht', value', counts rfl, rest'⟩⟩

/-! ### `mtvec` (R104, 92_eei_decisions.md D11) -/

/-- Any BASE is legal. -/
theorem tvecLegal_base (old w : Word) : tvecLegal old w &&& ~~~3#64 = w &&& ~~~3#64 := by
  have mode (v : Word) : v &&& 1#64 &&& ~~~3#64 = 0#64 := by rw [BitVec.and_assoc]; exact BitVec.and_zero
  have base : w &&& ~~~3#64 &&& ~~~3#64 = w &&& ~~~3#64 := by rw [BitVec.and_assoc, BitVec.and_self]
  unfold tvecLegal
  split <;> rw [BitVec.and_or_distrib_right, base, mode, BitVec.or_zero]

/-- The MODE that is stored is never a reserved one. -/
theorem tvecLegal_bit1 (old w : Word) : (tvecLegal old w).getLsbD 1 = false := by
  unfold tvecLegal
  split <;> simp

/-- A reserved MODE keeps the old one. -/
theorem tvecLegal_bit0 (old w : Word) :
    (tvecLegal old w).getLsbD 0 = if w.getLsbD 1 then old.getLsbD 0 else w.getLsbD 0 := by
  unfold tvecLegal
  split <;> simp

/-- A write of `mtvec` under REF's legaliser. -/
theorem State.csrWrite_mtvec (s : State) (w : Word) (h : s.cfg.kind .mtvec = .ref) :
    s.csrWrite w .mtvec = s.setCsr { s.csr with mtvec := narrow s.cfg.mxlen (tvecLegal s.csr.mtvec w) } := by
  simp [State.csrWrite, legalizeTvec, warlChoice, h]

/-- Settles O23: what is written is legal but for a reserved MODE, and nothing but `mtvec` is written. -/
theorem mtvecWrite : Obligations.MtvecWrite := by
  intro s rd rs1 hm hk hrd hrs1
  have performs := s.registerForm_performs .write rd rs1 (a := 0x305) (n := .mtvec) hm (by decide) (by decide) rfl
    (fun _ => rfl) hrd hrs1
  obtain ⟨k, l, counts⟩ := s.countRetired_cases none
  have touched := (s.csrTouched_csrrw rd rs1 0x305 .mtvec (fun _ => rfl)).trans
    (State.csrWrite_mtvec _ _ (by simpa using hk))
  rw [show counterWritten .mtvec = none from rfl, counts] at touched
  have csr : (s.csrPerform (s.registerUse .write rd rs1 0x305) .mtvec).csr =
      { s.csr with mtvec := narrow s.cfg.mxlen (tvecLegal s.csr.mtvec (s.readX rs1)), lcofip := l } := by
    rw [State.csrPerform_csr, touched]; rfl
  have cut : narrow s.cfg.mxlen (s.readX rs1) = s.readX rs1 := by rw [← s.xlen_m hm]; exact s.narrow_readX rs1
  refine ⟨_, performs, ?_, ?_, ?_, ?_, s.csrPerform_xAt_rd _ _ (s.csrForm_csrrw rd rs1 _).rd_zero,
    s.csrPerform_sameXBut (s.registerUse .write rd rs1 0x305) .mtvec (by simp), s.csrPerform_sameBytes _ _,
    s.csrPerform_sameRest _ _ (k := k) touched, s.csrPerform_retired4 _ _ (by simp [counterWritten])⟩
  all_goals rw [csr]
  · rw [← narrow_and, tvecLegal_base, narrow_and, cut]
  · rw [getLsbD_narrow _ _ (by omega), tvecLegal_bit1]
  · rw [getLsbD_narrow _ _ (by omega), tvecLegal_bit0]

/-! ### `mip` (R116 to R119) -/

/-- The platform's bits of `mip` are bits 16 and up (R116). -/
theorem State.platPending_low (s : State) {i : Nat} (h : i < 16) : s.platPending.getLsbD i = false := by
  have high : (0xFFFFFFFFFFFF0000#64).getLsbD i = false := by interval_cases i <;> rfl
  have mask : s.platMask.getLsbD i = false := by
    rw [State.platMask, BitVec.getLsbD_and]
    exact (congrArg _ high).trans (Bool.and_false _)
  simp [State.platPending, State.platWritable, mask]

/-- Bit 9 of `mip`, with S-mode, is the `SEIP` it is read with. -/
theorem State.mipWith_bit9 (s : State) (b : Bool) (h : s.hasS = true) : (s.mipWith b).getLsbD 9 = b := by
  simp only [State.mipWith, BitVec.getLsbD_or, getLsbD_flag _ _ 9 (by omega), s.platPending_low (i := 9) (by omega), h]
  simp

theorem flag_and (b : Bool) (i : Nat) (m : Word) : flag b i &&& m = flag (b && m.getLsbD i) i := by
  refine BitVec.eq_of_getLsbD_eq fun j hj => ?_
  rw [BitVec.getLsbD_and, getLsbD_flag _ _ _ hj, getLsbD_flag _ _ _ hj]
  by_cases h : j = i <;> simp [h]

/-- The machine-level bits of `mip` are the platform's alone (R117). -/
theorem State.mipRead_machineBits (s : State) :
    s.mipRead &&& 0x888#64 = flag s.plat.mei 11 ||| flag s.mtip 7 ||| flag s.msip 3 := by
  have plat : s.platPending &&& 0x888#64 = 0#64 := by
    refine BitVec.eq_of_getLsbD_eq fun j hj => ?_
    rw [BitVec.getLsbD_and, BitVec.getLsbD_zero]
    by_cases low : j < 16
    · rw [s.platPending_low low, Bool.false_and]
    · have wide : 0x888#64 = (0x888#16).setWidth 64 := rfl
      rw [wide, BitVec.getLsbD_setWidth, BitVec.getLsbD_of_ge 0x888#16 j (by omega), Bool.and_false, Bool.and_false]
  have off (i : Nat) : flag false i = 0#64 := by simp [flag]
  simp [State.mipRead, State.mipWith, BitVec.and_or_distrib_right, flag_and, plat, off]

/-- They are the same for two states that see the same platform. -/
theorem State.mipRead_machineBits_congr {s t : State} (hc : t.cfg = s.cfg) (hp : t.plat = s.plat) :
    t.mipRead &&& 0x888#64 = s.mipRead &&& 0x888#64 := by
  simp only [State.mipRead_machineBits, State.mtip, State.msip, hc, hp]

@[simp] theorem State.countRetired_hasS (s : State) (skip : Option CounterSel) : (s.countRetired skip).hasS = s.hasS := by
  obtain ⟨n, l, h⟩ := s.countRetired_cases skip
  rw [h]; rfl

/-- A write of `mip` stores the written `SEIP` (R119). -/
theorem State.csrWrite_seipSw (s : State) (w : Word) (h : s.hasS = true) : (s.csrWrite w .mip).csr.seipSw = w.getLsbD 9 := by
  have reached : (s.hasS && (lowMask .x64).getLsbD 9) = true := by rw [h]; rfl
  exact if_pos reached

/-- A register form on `mip` that writes: `rd` shows the OR with the controller's signal, and `SEIP` takes what the form makes
of the software bit alone (R119, 40_csr_access.md R372). -/
theorem State.registerForm_mip (s : State) (o : CsrOp) (rd rs1 : BitVec 5) (hm : s.priv = .m) (hS : s.hasS = true)
    (hrd : regExists s.features rd = true) (hrs1 : regExists s.features rs1 = true) (hd : rd ≠ 0)
    (hw : o.writesCsr rs1 = true) :
    ∃ t, exec (o.registerForm rd rs1 0x344) s = .next t ∧ (t.xAt rd).getLsbD 9 = (s.csr.seipSw || s.plat.sei) ∧
      t.csr.seipSw = (o.apply (narrow s.xlen s.mipRmw) (s.readX rs1)).getLsbD 9 ∧
      t.mipRead &&& 0x888 = s.mipRead &&& 0x888 := by
  have performs := s.registerForm_performs o rd rs1 (a := 0x344) (n := .mip) hm (by decide) (by decide) rfl (fun _ => rfl)
    hrd hrs1
  have shown := s.csrPerform_xAt_rd (s.registerUse o rd rs1 0x344) .mip (s.csrForm_registerForm o rd rs1 0x344).rd_zero
  have touched := s.csrTouched_writes (s.registerUse o rd rs1 0x344) .mip hw (fun _ => rfl)
  refine ⟨_, performs, ?_, ?_, State.mipRead_machineBits_congr (by simp) (by simp)⟩
  · calc ((s.csrPerform (s.registerUse o rd rs1 0x344) .mip).xAt rd).getLsbD 9
        = (rdValue s rd s.mipRead).getLsbD 9 := congrArg (BitVec.getLsbD · 9) shown
      _ = s.mipRead.getLsbD 9 := by rw [rdValue, if_neg hd, getLsbD_widen _ _ _ (by omega)]
      _ = (s.csr.seipSw || s.plat.sei) := s.mipWith_bit9 _ hS
  · rw [State.csrPerform_csr, touched, State.csrWrite_seipSw _ _ (by simpa), getLsbD_narrow _ _ (by omega)]
    rfl

/-- Settles O21: the three forms are one lemma, and bit 9 of the value that they modify is the software bit. -/
theorem seipReadModifyWrite : Obligations.SeipReadModifyWrite := by
  intro s rd rs1 hm hS hrd hrs1 hd hs
  have old : (narrow s.xlen s.mipRmw).getLsbD 9 = s.csr.seipSw :=
    (getLsbD_narrow _ _ (by omega)).trans (s.mipWith_bit9 _ hS)
  have source : (rs1 != 0) = true := bne_iff_ne.2 hs
  have form (o : CsrOp) (hw : o.writesCsr rs1 = true) := s.registerForm_mip o rd rs1 hm hS hrd hrs1 hd hw
  refine ⟨?_, ?_, form .write rfl⟩
  · simpa only [CsrOp.registerForm, CsrOp.apply, BitVec.getLsbD_or, old] using form .set source
  · have inRange : 9 < 64 := by omega
    simpa only [CsrOp.registerForm, CsrOp.apply, BitVec.getLsbD_and, BitVec.getLsbD_not, inRange, decide_true,
      Bool.true_and, old] using form .clear source

/-! ### `mepc` (R143 to R145) -/

/-- An exception pc whose low bits are clear, as IALIGN demands: bit 0, and bit 1 where the hart supports only IALIGN=32. -/
def epcCleared (c : Cfg) (v : Word) : Prop := v.getLsbD 0 = false ∧ (c.extC = false → v.getLsbD 1 = false)

theorem clearEpcLow_eq (c : Cfg) (v : Word) : clearEpcLow c v = v &&& ~~~(if c.extC then 1#64 else 3#64) := by
  unfold clearEpcLow; split <;> rfl

theorem epcCleared_clearEpcLow (c : Cfg) (v : Word) : epcCleared c (clearEpcLow c v) := by
  rw [clearEpcLow_eq]
  refine ⟨?_, fun h => ?_⟩
  · split <;> simp
  · simp [h]

/-- Whatever the legaliser does, it leaves the low bits clear. -/
theorem State.legalizeEpc_cleared (s : State) (w : Word) : epcCleared s.cfg (s.legalizeEpc w) := by
  simp only [State.legalizeEpc]
  split
  · split
    · exact epcCleared_clearEpcLow _ _
    · exact epcCleared_clearEpcLow _ _
  · exact epcCleared_clearEpcLow _ _

/-- Every valid address is held, and any address but by another legaliser. -/
theorem State.legalizeEpc_held (s : State) (w : Word)
    (h : s.cfg.kind .mepc ≠ .impl ∨ validAddress s.cfg (clearEpcLow s.cfg (narrow s.cfg.mxlen w)) = true) :
    s.legalizeEpc w = clearEpcLow s.cfg (narrow s.cfg.mxlen w) := by
  unfold State.legalizeEpc
  split
  · rename_i impl
    have valid := h.resolve_left (not_not_intro impl)
    exact if_pos (by simp [epcHeld, valid])
  · rfl

/-- `mepc` has its low bits clear. -/
def State.mepcOk (s : State) : Prop := epcCleared s.cfg s.csr.mepc

/-- What leaves the configuration and `mepc` alone keeps it so. -/
theorem State.mepcOk.congr {s t : State} (h : s.mepcOk) (hc : t.cfg = s.cfg) (hm : t.csr.mepc = s.csr.mepc) : t.mepcOk := by
  rw [State.mepcOk, hc, hm]; exact h

@[simp] theorem State.countRetired_mepc (s : State) (skip : Option CounterSel) :
    (s.countRetired skip).csr.mepc = s.csr.mepc := by
  obtain ⟨n, l, h⟩ := s.countRetired_cases skip; rw [h]; rfl

@[simp] theorem State.countTrapped_mepc (s : State) : s.countTrapped.csr.mepc = s.csr.mepc := by
  obtain ⟨n, l, h⟩ := s.countTrapped_cases; rw [h]; rfl

@[simp] theorem State.countIdle_mepc (s : State) : s.countIdle.csr.mepc = s.csr.mepc := by
  obtain ⟨n, l, h⟩ := s.countIdle_cases; rw [h]; rfl

@[simp] theorem State.noteRead_mepc (s : State) (n : CsrName) : (s.noteRead n).csr.mepc = s.csr.mepc := by
  cases n
  case custom a => exact congrArg Csrs.mepc (s.customCsrNote_csr a)
  all_goals rfl

@[simp] theorem State.unitSteps_mepc (s : State) (l : List (StateUnit × UnitAction)) :
    (s.unitSteps l).csr.mepc = s.csr.mepc := by
  obtain ⟨fs, vs, st, e⟩ := s.unitSteps_cases l; rw [e]; rfl

/-- Enabling an extension again leaves `mepc` alone (10_state.md R39). -/
theorem State.setMisa_mepc (s : State) (v : BitVec 26) : (s.setMisa v).csr.mepc = s.csr.mepc := by
  have f (q : State) : (q.againF v).csr.mepc = q.csr.mepc := by unfold State.againF; split <;> rfl
  have su (q : State) : (q.againS v).csr.mepc = q.csr.mepc := by unfold State.againS; split <;> rfl
  have us (q : State) : (q.againU v).csr.mepc = q.csr.mepc := by unfold State.againU; split <;> rfl
  have ve (q : State) : (q.againV v).csr.mepc = q.csr.mepc := by unfold State.againV; split <;> rfl
  simp [State.setMisa, f, su, us, ve]

/-- A CSR write changes `mepc` only where it is addressed. -/
theorem State.csrWrite_mepc (s : State) (w : Word) (n : CsrName) (h : n ≠ .mepc) :
    (s.csrWrite w n).csr.mepc = s.csr.mepc := by
  cases n
  case mepc => exact absurd rfl h
  case misa =>
    simp only [State.csrWrite, State.writeMisa]
    split
    · rfl
    · exact s.setMisa_mepc _
  case mhpmevent k high =>
    simp only [State.csrWrite, State.writeHpmevent]
    repeat' split
    all_goals rfl
  case mtval => simp only [State.csrWrite]; split <;> rfl
  case satp => simp only [State.csrWrite]; split <;> rfl
  all_goals simp [State.csrWrite, State.pmpcfgWrite, State.writeMipBits, State.writeF, State.writeV]

/-- Every CSR write keeps the low bits of `mepc` clear. -/
theorem State.csrWrite_mepcOk (s : State) (w : Word) (n : CsrName) (h : s.mepcOk) : (s.csrWrite w n).mepcOk := by
  by_cases hn : n = .mepc
  · subst hn; exact s.legalizeEpc_cleared w
  · exact h.congr (s.csrWrite_cfg w n) (s.csrWrite_mepc w n hn)

theorem State.csrPerform_mepcOk (s : State) (u : CsrUse) (n : CsrName) (h : s.mepcOk) : (s.csrPerform u n).mepcOk := by
  have read : ((s.countRetired (u.skips n)).csrAfterRead u n).mepcOk := by
    refine h.congr (by simp) ?_
    unfold State.csrAfterRead
    split <;> simp
  have touched : (s.csrTouched u n).mepcOk := by
    unfold State.csrTouched State.csrAfterWrite
    split
    · exact State.csrWrite_mepcOk _ _ _ read
    · exact read
  exact touched.congr (by simp) (by simp)

/-! ### Every step keeps the low bits of `mepc` clear (R143) -/

theorem TrapCase.mepcOk {s t : State} (h : TrapCase s t) (hs : s.mepcOk) : t.mepcOk := by
  cases h with
  | critical _ e => subst e; exact hs
  | rnmi _ _ _ e => subst e; exact hs
  | intoM _ _ _ _ e => subst e; exact s.legalizeEpc_cleared s.pc
  | intoS _ _ _ e => subst e; exact hs

theorem State.raise_mepcOk (s : State) (c : Nat) (v : Word) (h : s.mepcOk) : (s.raise c v).mepcOk := by
  rcases s.raise_cases c v with e | e <;> rw [e]
  · exact h
  · exact (State.deliver_cases _ _ _ _ _).1.mepcOk (h.congr (by simp) (by simp))

theorem State.takeInterrupt_mepcOk (s : State) (toS : Bool) (c : Nat) (h : s.mepcOk) : (s.takeInterrupt toS c).mepcOk := by
  unfold State.takeInterrupt
  split
  · exact h
  · exact (State.deliver_cases _ _ _ _ _).1.mepcOk (h.congr (by simp) (by simp))

theorem State.takeNmi_mepcOk (s : State) (h : s.mepcOk) : s.takeNmi.mepcOk := by
  have counted : s.countIdle.mepcOk := h.congr (by simp) (by simp)
  unfold State.takeNmi
  repeat' split
  · exact counted
  · exact h
  · exact s.countIdle.legalizeEpc_cleared _

theorem State.retire_mepcOk (s : State) (n : Nat) (h : s.mepcOk) : (s.retire n).mepcOk :=
  h.congr (by simp) (by simp [State.retire])

theorem State.idle_mepcOk (s : State) (h : s.mepcOk) : s.idle.mepcOk := by
  have counted : s.countIdle.mepcOk := h.congr (by simp) (by simp)
  unfold State.idle
  split
  · exact counted
  · exact State.raise_mepcOk _ _ _ h
  · exact counted

theorem State.customRetire_mepcOk (s : State) (f : CustomEffect) (h : s.mepcOk) : (s.customRetire f).mepcOk := by
  have acted : ((s.countRetired none).unitSteps f.units).mepcOk := h.congr (by simp) (by simp)
  have written := State.customCsrWrites_keep State.mepcOk _ (s.customCsrs f) acted
    fun t n v _ ht => t.csrWrite_mepcOk v n ht
  exact written.congr (by simp [State.customRetire]) (by simp [State.customRetire])

theorem ExecCase.mepcOk {s t : State} (h : ExecCase s t) (hs : s.mepcOk) : t.mepcOk := by
  cases h with
  | raised c v e => subst e; exact s.raise_mepcOk c v hs
  | csr u n _ _ e => subst e; exact s.csrPerform_mepcOk u n hs
  | mret _ e => subst e; exact hs.congr (by simp) (by simp [State.returnM])
  | sret _ _ e => subst e; exact hs.congr (by simp) (by simp [State.returnS])
  | mnret _ _ e => subst e; exact hs.congr (by simp) (by simp [State.returnRnmi])
  | retired e => subst e; exact s.retire_mepcOk 4 hs
  | waiting w e => subst e; exact s.retire_mepcOk 4 hs
  | limited w e => subst e; exact hs.congr (by simp) (by simp)
  | customRaised cs c v e => subst e; exact State.raise_mepcOk _ c v (hs.congr (by simp) (by simp))
  | customRetired cs f e => subst e; exact State.customRetire_mepcOk _ f (hs.congr (by simp) (by simp))

theorem baseEffect.mepcOk {s t : State} (h : baseEffect s t) (hs : s.mepcOk) : t.mepcOk := by
  obtain ⟨cs, ⟨c, v, rfl⟩ | ⟨r, v, a, u, rfl, rfl | rfl, -⟩⟩ := h
  · exact State.raise_mepcOk _ c v (hs.congr (by simp) (by simp))
  · exact hs.congr (by simp) (by simp)
  · exact hs.congr (by simp) (by simp)

theorem StepCase.mepcOk {s t : State} {p : PlatIn} (h : StepCase s p t) (hs : s.mepcOk) : t.mepcOk := by
  have awake {u : State} (hu : u = s ∨ u = s.setWait .running) : u.mepcOk := by
    rcases hu with rfl | rfl <;> exact hs
  cases h with
  | reset c _ e =>
    have zero : t.csr.mepc = 0#64 := by rw [e]; rfl
    simp [State.mepcOk, epcCleared, zero]
  | critical _ e => subst e; exact hs
  | nmi _ e => subst e; exact s.takeNmi_mepcOk hs
  | idle _ e => subst e; exact s.idle_mepcOk hs
  | complete _ e => subst e; exact s.retire_mepcOk 4 hs
  | interrupt u hu toS i _ e => subst e; exact u.takeInterrupt_mepcOk toS i (awake hu)
  | exception u hu c v e => subst e; exact u.raise_mepcOk c v (awake hu)
  | instruction u hu i h => exact (exec_cases i u t h).mepcOk (awake hu)
  | base u hu w h => exact (u.baseExec_next t w h).mepcOk (awake hu)

theorem step_mepcOk {s t : State} (h : step s = .next t) (hs : s.mepcOk) : t.mepcOk := by
  obtain ⟨b, m, e⟩ := s.sampled_csr s.input
  exact (step_cases s t h).mepcOk (hs.congr (by simp) (by rw [e]))

/-- Settles O24: every write goes through the legaliser, and every step keeps the low bits clear. -/
theorem mepcLowBitsZero : Obligations.MepcLowBitsZero := by
  refine ⟨fun s w => ?_, fun s t h0 h1 h => step_mepcOk h ⟨h0, h1⟩⟩
  obtain ⟨bit0, bit1⟩ := s.legalizeEpc_cleared w
  exact ⟨bit0, bit1, fun h => (s.legalizeEpc_held w h).trans (clearEpcLow_eq _ _)⟩

end Sys2Proof.Machine

/-! SUPPORT. Locked PMP entries and the sticky bits of `mseccfg` (12_state_config_pmp_mmio.md R190 to R197, R210 to R222): what
CSR writes do to them, and that what every CSR write keeps, every step that is no reset keeps. -/

namespace Sys2Proof.Machine

/-! ### What PMP depends on -/

/-- The fields of `mseccfg` that Smepmp defines; `USEED` and `SSEED` are free where their mode is enabled again
(10_state.md R39). -/
structure SmepmpBits where
  mml : Bool
  mmwp : Bool
  rlb : Bool

/-- The fields of Smepmp of a stored `mseccfg`. -/
def Mseccfg.smepmpBits (m : Mseccfg) : SmepmpBits := ⟨m.mml, m.mmwp, m.rlb⟩

/-- The state that the PMP entries and `mseccfg.MML`, `MMWP` and `RLB` are read from is unchanged. -/
structure SameProtection (s t : State) : Prop where
  cfg_eq : t.cfg = s.cfg
  pmp_eq : t.pmp = s.pmp
  bits_eq : t.csr.mseccfg.smepmpBits = s.csr.mseccfg.smepmpBits

theorem SameProtection.trans {s t u : State} (h : SameProtection s t) (k : SameProtection t u) : SameProtection s u :=
  ⟨k.cfg_eq.trans h.cfg_eq, k.pmp_eq.trans h.pmp_eq, k.bits_eq.trans h.bits_eq⟩

theorem State.seccfg_rlb (s : State) : s.seccfg.rlb = (s.cfg.ext.smepmp && s.csr.mseccfg.smepmpBits.rlb) := rfl

theorem SameProtection.rlb_eq {s t : State} (h : SameProtection s t) : t.seccfg.rlb = s.seccfg.rlb := by
  rw [State.seccfg_rlb, State.seccfg_rlb, h.cfg_eq, h.bits_eq]

theorem SameProtection.pmpEntry_eq {s t : State} (h : SameProtection s t) (i : Nat) : t.pmpEntry i = s.pmpEntry i := by
  simp only [State.pmpEntry, h.cfg_eq, h.pmp_eq]

/-! ### A locked entry (R195, R219) -/

theorem State.pmpLocked_iff (s : State) (i : Nat) :
    s.pmpLocked i = true ↔ (s.pmpEntry i).cfg.l = true ∧ s.seccfg.rlb = false := by
  simp [State.pmpLocked]

/-- An entry with `L` set is one of the hart's. -/
theorem State.lt_pmpN_of_l (s : State) {i : Nat} (h : (s.pmpEntry i).cfg.l = true) : i < s.cfg.pmpN.num := by
  by_contra hi
  rw [State.pmpEntry, if_neg hi] at h
  cases h

theorem State.anyPmpLock_of_l (s : State) {i : Nat} (h : (s.pmpEntry i).cfg.l = true) : s.anyPmpLock = true :=
  List.any_eq_true.2 ⟨i, List.mem_range.2 (s.lt_pmpN_of_l h), h⟩

theorem PmpCount.num_le (c : PmpCount) : c.num ≤ 64 := by cases c <;> decide

/-- Another set of entries reads as before where the stored entry is the one that was read. -/
theorem State.setPmp_pmpEntry (s : State) (v : Vector PmpEntry 64) (i : Nat)
    (h : i < s.cfg.pmpN.num → v[i]? = some (s.pmpEntry i)) : (s.setPmp v).pmpEntry i = s.pmpEntry i := by
  by_cases hi : i < s.cfg.pmpN.num
  · rw [State.pmpEntry, State.setPmp_cfg, if_pos hi, State.setPmp_pmp, h hi, Option.getD_some]
  · simp only [State.pmpEntry, State.setPmp_cfg, hi, if_false]

/-- An entry of the hart is a stored one. -/
theorem State.pmp_getElem? (s : State) {i : Nat} (h : i < s.cfg.pmpN.num) : s.pmp[i]? = some (s.pmpEntry i) := by
  have stored : i < 64 := h.trans_le (PmpCount.num_le _)
  rw [State.pmpEntry, if_pos h, Vector.getElem?_eq_getElem stored, Option.getD_some]

/-! ### Writes of `pmpcfg` and `pmpaddr` (R221) -/

/-- The bytes of a write of `pmpcfgK` skip a locked entry. -/
theorem State.pmpCfgBytes_locked (s : State) (k : Nat) (w : Word) {i : Nat} (h : s.pmpLocked i = true)
    (hi : i < s.cfg.pmpN.num) (n : Nat) : (s.pmpCfgBytes k w n)[i]? = some (s.pmpEntry i) := by
  induction n with
  | zero => exact s.pmp_getElem? hi
  | succ n ih =>
    have skipped (v : Word) : s.pmpCfgWritten i v = s.pmpEntry i := by simp [State.pmpCfgWritten, h]
    simp only [State.pmpCfgBytes]
    split
    · rw [Vector.getElem?_setIfInBounds]
      split
      · rename_i e
        rw [e, skipped, if_pos (hi.trans_le (PmpCount.num_le _))]
      · exact ih
    · exact ih

theorem State.pmpcfgWrite_pmpEntry (s : State) (k : Nat) (w : Word) {i : Nat} (h : s.pmpLocked i = true) :
    (s.pmpcfgWrite k w).pmpEntry i = s.pmpEntry i :=
  s.setPmp_pmpEntry _ i fun hi => s.pmpCfgBytes_locked k w h hi _

theorem State.pmpaddrWrite_locked (s : State) (i : Nat) (w : Word) (h : s.pmpaddrLocked i = true) :
    s.pmpaddrWrite i w = s := by
  simp [State.pmpaddrWrite, h]

/-- A write of any `pmpaddr` leaves a locked entry. -/
theorem State.pmpaddrWrite_pmpEntry (s : State) (j : Nat) (w : Word) {i : Nat} (h : s.pmpLocked i = true) :
    (s.pmpaddrWrite j w).pmpEntry i = s.pmpEntry i := by
  by_cases e : j = i
  · rw [s.pmpaddrWrite_locked j w (by simp [State.pmpaddrLocked, e, h])]
  · unfold State.pmpaddrWrite
    split
    · refine s.setPmp_pmpEntry _ i fun hi => ?_
      rw [Vector.getElem?_setIfInBounds_ne e, s.pmp_getElem? hi]
    · rfl

/-- Settles O50: the byte of a locked entry is skipped, and `pmpaddrLocked` holds of it and of the entry below. -/
theorem lockedPmpWritesIgnored : Obligations.LockedPmpWritesIgnored := by
  intro s i w h
  refine ⟨fun k => s.pmpcfgWrite_pmpEntry k w h, s.pmpaddrWrite_locked i w ?_,
    fun j hj htor => s.pmpaddrWrite_locked j w ?_⟩
  · simp [State.pmpaddrLocked, h]
  · subst hj
    simp [State.pmpaddrLocked, h, htor]

/-! ### Writes of `mseccfg` (R195 to R197) -/

/-- Whatever a write of `mseccfg` reaches, it stores the fields that some value asks for. -/
theorem State.mseccfgWrite_asked (s : State) (mask w : Word) :
    ∃ v, s.mseccfgWrite mask w = s.mseccfgAsked (s.csr.mseccfg.present s.cfg) v := ⟨_, rfl⟩

theorem State.mseccfgWrite_mml (s : State) (mask w : Word) (h : s.seccfg.mml = true) :
    (s.cfg.ext.smepmp && (s.mseccfgWrite mask w).mml) = true := by
  obtain ⟨v, e⟩ := s.mseccfgWrite_asked mask w
  have asked : (s.mseccfgWrite mask w).mml = (s.cfg.ext.smepmp && (s.seccfg.mml || v.getLsbD 0)) := by rw [e]; rfl
  have smepmp := (Bool.and_eq_true_iff.1 h).1
  simp [asked, h, smepmp]

theorem State.mseccfgWrite_mmwp (s : State) (mask w : Word) (h : s.seccfg.mmwp = true) :
    (s.cfg.ext.smepmp && (s.mseccfgWrite mask w).mmwp) = true := by
  obtain ⟨v, e⟩ := s.mseccfgWrite_asked mask w
  have asked : (s.mseccfgWrite mask w).mmwp = (s.cfg.ext.smepmp && (s.seccfg.mmwp || v.getLsbD 1)) := by rw [e]; rfl
  have smepmp := (Bool.and_eq_true_iff.1 h).1
  simp [asked, h, smepmp]

/-- `RLB` stays 0 while an entry has `L` set. -/
theorem State.mseccfgWrite_rlb (s : State) (mask w : Word) (h : s.seccfg.rlb = false) (hl : s.anyPmpLock = true) :
    (s.mseccfgWrite mask w).rlb = false := by
  obtain ⟨v, e⟩ := s.mseccfgWrite_asked mask w
  have asked : (s.mseccfgWrite mask w).rlb =
      (s.cfg.ext.smepmp && if !s.seccfg.rlb && s.anyPmpLock then false else v.getLsbD 2) := by rw [e]; rfl
  simp [asked, h, hl]

/-! ### CSR writes -/

/-- What a CSR write can do to the state of PMP. -/
inductive ProtectionWrite (s t : State) : Prop where
  | same (h : SameProtection s t)
  | mseccfg (mask w : Word) (h : SameProtection (s.setCsr { s.csr with mseccfg := s.mseccfgWrite mask w }) t)
  | pmpcfg (k : Nat) (w : Word) (e : t = s.pmpcfgWrite k w)
  | pmpaddr (i : Nat) (w : Word) (e : t = s.pmpaddrWrite i w)

theorem State.settleElp_sameProtection (s : State) : SameProtection s s.settleElp := ⟨by simp, by simp, by simp⟩

/-- Enabling an extension again leaves the bits of Smepmp alone (10_state.md R39). -/
theorem State.setMisa_smepmpBits (s : State) (v : BitVec 26) :
    (s.setMisa v).csr.mseccfg.smepmpBits = s.csr.mseccfg.smepmpBits := by
  have f (q : State) : (q.againF v).csr.mseccfg.smepmpBits = q.csr.mseccfg.smepmpBits := by
    unfold State.againF; split <;> rfl
  have su (q : State) : (q.againS v).csr.mseccfg.smepmpBits = q.csr.mseccfg.smepmpBits := by
    unfold State.againS; split <;> rfl
  have us (q : State) : (q.againU v).csr.mseccfg.smepmpBits = q.csr.mseccfg.smepmpBits := by
    unfold State.againU; split <;> rfl
  have ve (q : State) : (q.againV v).csr.mseccfg.smepmpBits = q.csr.mseccfg.smepmpBits := by
    unfold State.againV; split <;> rfl
  simp [State.setMisa, f, su, us, ve]

theorem State.csrWrite_protection (s : State) (w : Word) (n : CsrName) : ProtectionWrite s (s.csrWrite w n) := by
  cases n
  case mseccfg => exact .mseccfg _ _ (State.settleElp_sameProtection _)
  case mseccfgh => exact .mseccfg _ _ (State.settleElp_sameProtection _)
  case pmpcfg k => exact .pmpcfg k w rfl
  case pmpaddr i => exact .pmpaddr i w rfl
  all_goals refine .same ⟨s.csrWrite_cfg w _, ?_, ?_⟩
  case misa.refine_2 =>
    simp only [State.csrWrite, State.writeMisa]
    split
    · rfl
    · exact s.setMisa_smepmpBits _
  case mhpmevent.refine_2 k high =>
    simp only [State.csrWrite, State.writeHpmevent]
    repeat' split
    all_goals rfl
  case mtval.refine_1 => simp only [State.csrWrite]; split <;> rfl
  case mtval.refine_2 => simp only [State.csrWrite]; split <;> rfl
  case satp.refine_1 => simp only [State.csrWrite]; split <;> rfl
  case satp.refine_2 => simp only [State.csrWrite]; split <;> rfl
  all_goals simp [State.csrWrite, State.writeMipBits, State.writeF, State.writeV]

/-! ### The parts of a step -/

theorem State.countRetired_sameProtection (s : State) (skip : Option CounterSel) :
    SameProtection s (s.countRetired skip) := by
  obtain ⟨n, l, h⟩ := s.countRetired_cases skip
  rw [h]; exact ⟨rfl, rfl, rfl⟩

theorem State.countTrapped_sameProtection (s : State) : SameProtection s s.countTrapped := by
  obtain ⟨n, l, h⟩ := s.countTrapped_cases
  rw [h]; exact ⟨rfl, rfl, rfl⟩

theorem State.countIdle_sameProtection (s : State) : SameProtection s s.countIdle := by
  obtain ⟨n, l, h⟩ := s.countIdle_cases
  rw [h]; exact ⟨rfl, rfl, rfl⟩

theorem State.retire_sameProtection (s : State) (n : Nat) : SameProtection s (s.retire n) :=
  (s.countRetired_sameProtection none).trans ⟨rfl, rfl, rfl⟩

theorem State.writeX_sameProtection (s : State) (xl : Xlen) (r : BitVec 5) (v : Word) :
    SameProtection s (s.writeX xl r v) := ⟨by simp, by simp, by simp⟩

theorem State.physWriteAll_sameProtection (s : State) (cs : List (Nat × Byte)) : SameProtection s (s.physWriteAll cs) :=
  ⟨by simp, by simp, by simp⟩

theorem State.noteRead_sameProtection (s : State) (n : CsrName) : SameProtection s (s.noteRead n) := by
  refine ⟨s.noteRead_cfg n, s.noteRead_pmp n, ?_⟩
  cases n
  case custom a => exact congrArg (·.mseccfg.smepmpBits) (s.customCsrNote_csr a)
  all_goals rfl

theorem State.unitSteps_sameProtection (s : State) (l : List (StateUnit × UnitAction)) :
    SameProtection s (s.unitSteps l) := by
  obtain ⟨fs, vs, st, e⟩ := s.unitSteps_cases l
  rw [e]; exact ⟨rfl, rfl, rfl⟩

theorem State.sampled_sameProtection (s : State) (p : PlatIn) : SameProtection s (s.sampled p) := by
  obtain ⟨b, m, e⟩ := s.sampled_csr p
  exact ⟨s.sampled_cfg p, s.sampled_pmp p, by rw [e]⟩

/-! ### Traps and returns -/

theorem TrapCase.sameProtection {s t : State} (h : TrapCase s t) : SameProtection s t := by
  cases h with
  | critical _ e => subst e; exact ⟨rfl, rfl, rfl⟩
  | rnmi _ _ _ e => subst e; exact ⟨rfl, rfl, rfl⟩
  | intoM _ _ _ _ e => subst e; exact ⟨rfl, rfl, rfl⟩
  | intoS _ _ _ e => subst e; exact ⟨rfl, rfl, rfl⟩

theorem State.deliver_sameProtection (s : State) (toS i : Bool) (c : Nat) (v : Word) :
    SameProtection s (s.deliver toS i c v) := (s.deliver_cases toS i c v).1.sameProtection

theorem State.raise_sameProtection (s : State) (c : Nat) (v : Word) : SameProtection s (s.raise c v) := by
  rcases s.raise_cases c v with e | e <;> rw [e]
  · exact ⟨rfl, rfl, rfl⟩
  · exact s.countTrapped_sameProtection.trans (State.deliver_sameProtection _ _ _ _ _)

theorem State.takeInterrupt_sameProtection (s : State) (toS : Bool) (c : Nat) :
    SameProtection s (s.takeInterrupt toS c) := by
  unfold State.takeInterrupt
  split
  · exact ⟨rfl, rfl, rfl⟩
  · exact s.countIdle_sameProtection.trans (State.deliver_sameProtection _ _ _ _ _)

theorem State.takeNmi_sameProtection (s : State) : SameProtection s s.takeNmi := by
  unfold State.takeNmi
  repeat' split
  · exact s.countIdle_sameProtection.trans ⟨rfl, rfl, rfl⟩
  · exact ⟨rfl, rfl, rfl⟩
  · exact s.countIdle_sameProtection.trans ⟨rfl, rfl, rfl⟩

theorem State.idle_sameProtection (s : State) : SameProtection s s.idle := by
  unfold State.idle
  split
  · exact s.countIdle_sameProtection
  · have raised := State.raise_sameProtection (s.setWait .running) 2 ((encode .wfi).setWidth 64)
    exact ⟨raised.cfg_eq, raised.pmp_eq, raised.bits_eq⟩
  · exact s.countIdle_sameProtection.trans ⟨rfl, rfl, rfl⟩

theorem State.returnM_sameProtection (s : State) : SameProtection s s.returnM :=
  (s.countRetired_sameProtection none).trans ⟨by simp, by simp, rfl⟩

theorem State.returnS_sameProtection (s : State) : SameProtection s s.returnS :=
  (s.countRetired_sameProtection none).trans ⟨by simp, by simp, rfl⟩

theorem State.returnRnmi_sameProtection (s : State) : SameProtection s s.returnRnmi :=
  (s.countRetired_sameProtection none).trans ⟨by simp, by simp, rfl⟩

theorem baseEffect.sameProtection {s t : State} (h : baseEffect s t) : SameProtection s t := by
  obtain ⟨cs, ⟨c, v, rfl⟩ | ⟨r, v, a, u, rfl, ht, -⟩⟩ := h
  · exact (s.physWriteAll_sameProtection cs).trans (State.raise_sameProtection _ c v)
  · have written := (s.physWriteAll_sameProtection cs).trans
      ((State.countRetired_sameProtection _ none).trans (State.writeX_sameProtection _ s.xlen r v))
    rcases ht with rfl | rfl <;> exact written.trans ⟨rfl, rfl, rfl⟩

/-! ### What every CSR write keeps, every step keeps -/

/-- A claim on the state of PMP that every CSR write keeps. -/
structure ProtectionInvariant (P : State → Prop) : Prop where
  congr : ∀ {s t : State}, SameProtection s t → P s → P t
  csrWrite : ∀ (s : State) (w : Word) (n : CsrName), P s → P (s.csrWrite w n)

section
variable {P : State → Prop}

theorem ProtectionInvariant.csrPerform (h : ProtectionInvariant P) (s : State) (u : CsrUse) (n : CsrName) (hs : P s) :
    P (s.csrPerform u n) := by
  have read : P ((s.countRetired (u.skips n)).csrAfterRead u n) := by
    have counted := h.congr (s.countRetired_sameProtection (u.skips n)) hs
    unfold State.csrAfterRead
    split
    · exact h.congr (State.noteRead_sameProtection _ _) counted
    · exact counted
  have touched : P (s.csrTouched u n) := by
    unfold State.csrTouched State.csrAfterWrite
    split
    · exact h.csrWrite _ _ _ read
    · exact read
  rw [State.csrPerform_eq]
  split
  · exact h.congr ((State.writeX_sameProtection _ _ _ _).trans ⟨rfl, rfl, rfl⟩) touched
  · exact h.congr (s := s.csrTouched u n) ⟨rfl, rfl, rfl⟩ touched

theorem ProtectionInvariant.customRetire (h : ProtectionInvariant P) (s : State) (f : CustomEffect) (hs : P s) :
    P (s.customRetire f) := by
  have acted := h.congr ((s.countRetired_sameProtection none).trans (State.unitSteps_sameProtection _ f.units)) hs
  have written := State.customCsrWrites_keep P _ (s.customCsrs f) acted fun _ n v _ ht => h.csrWrite _ v n ht
  have modified := h.congr (State.unitSteps_sameProtection _ (f.units.filter (fun p => p.2 == .modify))) written
  exact h.congr ⟨by simp [State.customRetire], by simp [State.customRetire], by simp [State.customRetire]⟩ modified

theorem ProtectionInvariant.exec (h : ProtectionInvariant P) {s t : State} (ht : ExecCase s t) (hs : P s) : P t := by
  cases ht with
  | raised c v e => subst e; exact h.congr (s.raise_sameProtection c v) hs
  | csr u n _ _ e => subst e; exact h.csrPerform s u n hs
  | mret _ e => subst e; exact h.congr s.returnM_sameProtection hs
  | sret _ _ e => subst e; exact h.congr s.returnS_sameProtection hs
  | mnret _ _ e => subst e; exact h.congr s.returnRnmi_sameProtection hs
  | retired e => subst e; exact h.congr (s.retire_sameProtection 4) hs
  | waiting w e => subst e; exact h.congr ((s.retire_sameProtection 4).trans ⟨rfl, rfl, rfl⟩) hs
  | limited w e => subst e; exact h.congr (s.countIdle_sameProtection.trans ⟨rfl, rfl, rfl⟩) hs
  | customRaised cs c v e =>
    subst e
    exact h.congr ((s.physWriteAll_sameProtection cs).trans (State.raise_sameProtection _ c v)) hs
  | customRetired cs f e => subst e; exact h.customRetire _ f (h.congr (s.physWriteAll_sameProtection cs) hs)

theorem ProtectionInvariant.hartStep (h : ProtectionInvariant P) {s t : State} {p : PlatIn} (ht : StepCase s p t)
    (hr : p.reset = none) (hs : P s) : P t := by
  have awake {u : State} (hu : u = s ∨ u = s.setWait .running) : P u := by
    rcases hu with rfl | rfl
    · exact hs
    · exact h.congr (s := s) ⟨rfl, rfl, rfl⟩ hs
  cases ht with
  | reset c hc _ => rw [hr] at hc; cases hc
  | critical _ e => subst e; exact h.congr (s := s) ⟨rfl, rfl, rfl⟩ hs
  | nmi _ e => subst e; exact h.congr s.takeNmi_sameProtection hs
  | idle _ e => subst e; exact h.congr s.idle_sameProtection hs
  | complete _ e => subst e; exact h.congr ((s.retire_sameProtection 4).trans ⟨rfl, rfl, rfl⟩) hs
  | interrupt u hu toS i _ e => subst e; exact h.congr (u.takeInterrupt_sameProtection toS i) (awake hu)
  | exception u hu c v e => subst e; exact h.congr (u.raise_sameProtection c v) (awake hu)
  | instruction u hu i hi => exact h.exec (exec_cases i u t hi) (awake hu)
  | base u hu w hw => exact h.congr (u.baseExec_next t w hw).sameProtection (awake hu)

/-- Every step that is no reset keeps it (60_exceptions.md R510). -/
theorem ProtectionInvariant.step (h : ProtectionInvariant P) {s t : State} (hr : s.input.reset = none)
    (ht : step s = .next t) (hs : P s) : P t :=
  h.hartStep (step_cases s t ht) hr (h.congr (s.sampled_sameProtection s.input) hs)

end

/-! ### Locked entries and sticky bits (R195 to R197, R219) -/

/-- Entry i is the given one, and locked. -/
def State.lockedAs (i : Nat) (e : PmpEntry) (s : State) : Prop := s.pmpEntry i = e ∧ s.pmpLocked i = true

/-- What leaves the entry and `RLB` alone leaves it locked. -/
theorem State.lockedAs.congr {s t : State} {i : Nat} {e : PmpEntry} (h : s.lockedAs i e)
    (he : t.pmpEntry i = s.pmpEntry i) (hr : s.seccfg.rlb = false → t.seccfg.rlb = false) : t.lockedAs i e := by
  obtain ⟨entry, locked⟩ := h
  obtain ⟨l, rlb⟩ := (s.pmpLocked_iff i).1 locked
  exact ⟨he.trans entry, (t.pmpLocked_iff i).2 ⟨by rw [he, l], hr rlb⟩⟩

/-- Every CSR write leaves a locked entry locked: `pmpcfg` and `pmpaddr` skip it, and `RLB` cannot be set. -/
theorem protectionInvariant_lockedAs (i : Nat) (e : PmpEntry) : ProtectionInvariant (State.lockedAs i e) where
  congr same h := h.congr (same.pmpEntry_eq i) same.rlb_eq.trans
  csrWrite s w n h := by
    have locked := h.2
    cases s.csrWrite_protection w n with
    | same same =>
      exact h.congr (same.pmpEntry_eq i) same.rlb_eq.trans
    | mseccfg mask v same =>
      have any := s.anyPmpLock_of_l ((s.pmpLocked_iff i).1 locked).1
      refine h.congr (same.pmpEntry_eq i) fun hr => ?_
      rw [State.seccfg_rlb, same.bits_eq]
      exact (congrArg _ (s.mseccfgWrite_rlb mask v hr any)).trans (Bool.and_false _)
    | pmpcfg k v eq => rw [eq]; exact h.congr (s.pmpcfgWrite_pmpEntry k v locked) id
    | pmpaddr j v eq =>
      rw [eq]
      exact h.congr (s.pmpaddrWrite_pmpEntry j v locked) fun hr => by simpa [State.seccfg_rlb] using hr

/-- Settles O52: that an entry is locked as it is, is an invariant of the CSR writes and so of every step. -/
theorem lockedPmpEntriesStay : Obligations.LockedPmpEntriesStay := fun s _ i locked hr ht =>
  (protectionInvariant_lockedAs i (s.pmpEntry i)).step hr ht ⟨rfl, locked⟩

/-- A bit of Smepmp that no write of `mseccfg` clears is an invariant. -/
theorem protectionInvariant_smepmpBit (bit : SmepmpBits → Bool)
    (sticky : ∀ (s : State) (mask w : Word), (s.cfg.ext.smepmp && bit s.csr.mseccfg.smepmpBits) = true →
      (s.cfg.ext.smepmp && bit (s.mseccfgWrite mask w).smepmpBits) = true) :
    ProtectionInvariant (fun s => (s.cfg.ext.smepmp && bit s.csr.mseccfg.smepmpBits) = true) where
  congr same h := by rw [same.cfg_eq, same.bits_eq]; exact h
  csrWrite s w n h := by
    cases s.csrWrite_protection w n with
    | same same => rw [same.cfg_eq, same.bits_eq]; exact h
    | mseccfg mask v same => rw [same.cfg_eq, same.bits_eq]; exact sticky s mask v h
    | pmpcfg k v eq => rw [eq]; exact h
    | pmpaddr j v eq => rw [eq, State.pmpaddrWrite_cfg, State.pmpaddrWrite_csr]; exact h

/-- Settles O53: a write of `mseccfg` takes the OR with the old bit, and nothing else writes the bits. -/
theorem smepmpBitsAreSticky : Obligations.SmepmpBitsAreSticky := fun _ _ hr ht =>
  ⟨(protectionInvariant_smepmpBit SmepmpBits.mml State.mseccfgWrite_mml).step hr ht,
    (protectionInvariant_smepmpBit SmepmpBits.mmwp State.mseccfgWrite_mmwp).step hr ht⟩

end Sys2Proof.Machine

/-! SUPPORT. The address ranges of PMP entries (12_state_config_pmp_mmio.md R215 to R217), and what the hart sees of the
platform's timer and software interrupts (R232 to R236). -/

namespace Sys2Proof.Machine

/-! ### The low bits of an address register (R217) -/

theorem getElem_lowOnes (n i : Nat) (h : i < 64) : (lowOnes n)[i] = decide (i < n) := by
  rw [← BitVec.getLsbD_eq_getElem, lowOnes, BitVec.getLsbD_ofNat, Nat.testBit_two_pow_sub_one, decide_eq_true h,
    Bool.true_and]

/-- Clearing the low n bits of a word rounds it down to a multiple of 2^n. -/
theorem toNat_and_not_lowOnes (v : Word) (n : Nat) : (v &&& ~~~lowOnes n).toNat = v.toNat / 2 ^ n * 2 ^ n := by
  refine Nat.eq_of_testBit_eq fun i => ?_
  rw [BitVec.testBit_toNat, Nat.testBit_mul_two_pow, Nat.testBit_div_two_pow, BitVec.testBit_toNat, BitVec.getLsbD_and,
    BitVec.getLsbD_not]
  by_cases hi : i < 64
  · by_cases low : n ≤ i
    · simp [getElem_lowOnes, hi, low]
    · simp [getElem_lowOnes, hi, low, Nat.lt_of_not_le low]
  · by_cases low : n ≤ i
    · simp [hi, low, BitVec.getLsbD_of_ge v i (Nat.le_of_not_lt hi)]
    · simp [hi, low]

/-- A read of `pmpaddr` and the stored register differ below bit G alone, whatever the entry's mode is. -/
theorem State.pmpaddrRead_and_not_lowOnes (s : State) (i : Nat) :
    s.pmpaddrRead i &&& ~~~lowOnes s.cfg.pmpG = (s.pmpEntry i).addr &&& pmpaddrMask s.cfg &&& ~~~lowOnes s.cfg.pmpG := by
  simp only [State.pmpaddrRead]
  split
  · refine BitVec.eq_of_getLsbD_eq fun j hj => ?_
    by_cases low : j < s.cfg.pmpG
    · simp [getElem_lowOnes, hj, low]
    · have above : ¬ j < s.cfg.pmpG - 1 := by omega
      simp [getElem_lowOnes, hj, above]
  · split
    · rw [BitVec.and_assoc, BitVec.and_self]
    · rfl

/-- A TOR bound is the register as it reads, with the low G bits taken as zero. -/
theorem State.torBound_eq (s : State) (i : Nat) :
    s.torBound i = (s.pmpaddrRead i).toNat / 2 ^ s.cfg.pmpG * 2 ^ s.cfg.pmpG := by
  rw [← toNat_and_not_lowOnes, State.pmpaddrRead_and_not_lowOnes, State.torBound]

/-- Settles O48: a bound does not depend on the mode of the entry that it is read from. -/
theorem pmpTorRange : Obligations.PmpTorRange := by
  intro s i a h
  simp only [State.pmpMatches, h, State.torBound_eq, Bool.and_eq_true, decide_eq_true_eq]

/-! ### Naturally aligned ranges (R215) -/

/-- A number that ends in k one bits, with a zero above them, has k trailing ones. -/
theorem trailingOnes_eq (fuel k v : Nat) (hk : k < fuel) (h : v % 2 ^ (k + 1) = 2 ^ k - 1) : trailingOnes fuel v = k := by
  induction fuel generalizing k v with
  | zero => exact absurd hk (Nat.not_lt_zero k)
  | succ fuel ih =>
    cases k with
    | zero => simp_all [trailingOnes]
    | succ k =>
      have split_low : v % 2 ^ (k + 1 + 1) = v % 2 + 2 * (v / 2 % 2 ^ (k + 1)) := by
        rw [pow_succ' 2 (k + 1), Nat.mod_mul]
      have double : 2 ^ (k + 1) = 2 * 2 ^ k := pow_succ' 2 k
      have pos : 0 < 2 ^ k := Nat.two_pow_pos k
      have odd : v % 2 = 1 := by omega
      have rest : v / 2 % 2 ^ (k + 1) = 2 ^ k - 1 := by omega
      rw [trailingOnes, if_pos odd, ih k (v / 2) (Nat.lt_of_succ_lt_succ hk) rest]

/-- The numbers with a given quotient are a range. -/
theorem div_eq_iff_range (a m q : Nat) (hm : 0 < m) : a / m = q ↔ q * m ≤ a ∧ a < q * m + m := by
  rw [Nat.div_eq_iff hm]
  omega

/-- Settles O49: the trailing ones of the register are the k of the statement. -/
theorem pmpNapotRange : Obligations.PmpNapotRange := by
  refine fun s i a k => ⟨fun napot hk ones => ?_, fun na4 grain => ?_⟩
  · have trailing := trailingOnes_eq 64 k _ hk ones
    simp only [State.pmpMatches, napot, trailing, beq_iff_eq]
    exact div_eq_iff_range a _ _ (Nat.two_pow_pos _)
  · simp only [State.pmpMatches, na4, grain, beq_self_eq_true, Bool.true_and, beq_iff_eq]
    exact div_eq_iff_range a 4 _ (by omega)

/-! ### The pending bits (R232, R235, 11_state_trap_csrs.md R117) -/

/-- A machine-level bit of `mip` is the platform's. -/
theorem State.mipRead_getLsbD_machine (s : State) {i : Nat} (h : (0x888#64).getLsbD i = true) :
    s.mipRead.getLsbD i = (s.plat.mei && decide (i = 11) || s.mtip && decide (i = 7) || s.msip && decide (i = 3)) := by
  have hi : i < 64 := BitVec.lt_of_getLsbD h
  have machine := congrArg (BitVec.getLsbD · i) s.mipRead_machineBits
  simpa only [BitVec.getLsbD_and, h, Bool.and_true, BitVec.getLsbD_or, getLsbD_flag _ _ _ hi] using machine

/-- Settles O51: the three bits are the platform's, and with no lag they are what the registers hold now. -/
theorem machinePendingBits : Obligations.MachinePendingBits := by
  intro s hz
  have mtip : s.mtip = decide (s.plat.mtimecmp.toNat ≤ s.plat.mtime.toNat) := if_pos hz
  have msip : s.msip = (s.cfg.msipImpl && s.plat.msip) := by rw [State.msip, if_pos hz]
  refine ⟨?_, ?_, ?_⟩
  · rw [s.mipRead_getLsbD_machine (by decide), mtip]
    simp
  · rw [s.mipRead_getLsbD_machine (by decide), msip]
    simp
  · rw [s.mipRead_getLsbD_machine (by decide)]
    simp

/-! ### Sampling an empty schedule (R232, R235, R236; log entries 7, 8, 29) -/

theorem State.input_of_empty (s : State) (h : s.inputs = []) : s.input = s.quiet := by simp [State.input, h]

/-- The quiet platform stores nothing, makes no tick and keeps its levels. -/
theorem State.platformMoves_quiet (s : State) : s.platformMoves s.quiet = s := by
  simp [State.platformMoves, State.quiet, State.physWriteAll, State.setPlat]

/-- The quiet platform requests no interrupt. -/
theorem State.requested_quiet (s t : State) : t.requested s.quiet = t := by
  unfold State.requested
  split
  · rfl
  · simp [State.quiet, State.setCsr]

/-- Settles O7: of the platform's part only the synchronisation is left. -/
theorem quietSampling : Obligations.QuietSampling := by
  intro s h
  rw [State.sampled, s.input_of_empty h, State.platformMoves_quiet, State.requested_quiet, h]
  simp [State.synchronised, State.quiet, State.setPlat, State.setInputs, State.setCtr, h]

end Sys2Proof.Machine

/-! SUPPORT. The bytes of an instruction in memory: decoding what the encoder wrote (30_encoding.md R330, R336), and reading
it back by a fetch (20_memory.md R252, R287). -/

namespace Sys2Proof

/-! ### Decoding an encoded word (R336) -/

theorem decodeWord_of_opcode {w : BitVec 32} (h : opcodeOf w = systemOpcode) : decodeWord w = decodeSystem w := by
  have long : w ≠ 0x00009002#32 := fun e => absurd (e ▸ h) (by decide)
  rw [decodeWord, if_neg long, if_pos h]

theorem decodeSystem_of_funct3_zero {w : BitVec 32} (h : funct3Of w = 0) : decodeSystem w = decodePriv w := by
  simp [decodeSystem, h]

theorem ne_of_funct7 {w v : BitVec 32} (h : funct7Of w ≠ funct7Of v) : w ≠ v := fun e => h (congrArg _ e)

theorem ne_of_funct6 {w v : BitVec 32} (h : funct6Of w ≠ funct6Of v) : w ≠ v := fun e => h (congrArg _ e)

/-- `funct6` is `funct7` without its lowest bit. -/
theorem funct6Of_eq (w : BitVec 32) : funct6Of w = (funct7Of w).extractLsb' 1 6 := by
  refine BitVec.eq_of_getLsbD_eq fun j hj => ?_
  have inside : 1 + j < 7 := by omega
  simp [funct6Of, funct7Of, hj, inside, show 25 + (1 + j) = 26 + j by omega]

/-- A word whose `funct6` starts with a one is none of the other PRIV rows. -/
theorem decodePriv_of_custom {w : BitVec 32} (h : (funct6Of w).msb = true) : decodePriv w = decodeCustom w := by
  have word (v : BitVec 32) (hv : (funct6Of v).msb = false) : w ≠ v :=
    ne_of_funct6 fun e => by simp [e, hv] at h
  have fields (f7 : BitVec 7) (hf : (f7.extractLsb' 1 6).msb = false) : funct7Of w ≠ f7 := fun e => by
    simp [funct6Of_eq, e, hf] at h
  rw [decodePriv, if_neg (word _ (by decide)), if_neg (word _ (by decide)), if_neg (word _ (by decide)),
    if_neg (word _ (by decide)), if_neg (word _ (by decide)), if_neg (word _ (by decide)),
    if_neg (fun both => fields _ (by decide) both.1), if_neg (fun both => fields _ (by decide) both.1)]

theorem decodeWord_encodeI (imm : BitVec 12) (rs1 rd : BitVec 5) (f3 : BitVec 3) :
    decodeWord (encodeI imm rs1 f3 rd) = decodeSystem (encodeI imm rs1 f3 rd) :=
  decodeWord_of_opcode (opcodeOf_encodeI imm rs1 f3 rd)

theorem decodeWord_encodeR (f7 : BitVec 7) (rs2 rs1 : BitVec 5) :
    decodeWord (encodeR f7 rs2 rs1) = decodePriv (encodeR f7 rs2 rs1) :=
  (decodeWord_of_opcode (opcodeOf_encodeR f7 rs2 rs1)).trans (decodeSystem_of_funct3_zero (funct3Of_encodeR f7 rs2 rs1))

theorem decodeWord_encodeCustom {f6 : BitVec 6} (h : f6.msb = true) (hi : BitVec 11) (lo : BitVec 5) :
    decodeWord (encodeCustom f6 hi lo) = decodeCustom (encodeCustom f6 hi lo) :=
  (decodeWord_of_opcode (opcodeOf_encodeCustom f6 hi lo)).trans <|
    (decodeSystem_of_funct3_zero (funct3Of_encodeCustom f6 hi lo)).trans <|
      decodePriv_of_custom ((funct6Of_encodeCustom f6 hi lo).symm ▸ h)

/-- An R-format word of a `funct7` that no fixed word has falls through to the rows of SFENCE.VMA and SINVAL.VMA. -/
theorem decodePriv_encodeR {f7 : BitVec 7} (rs2 rs1 : BitVec 5) (h : f7 ∉ [0#7, 0b0001000#7, 0b0011000#7, 0b0111000#7]) :
    decodePriv (encodeR f7 rs2 rs1) =
      if f7 = 0b0001001 then .ok (.sfenceVma rs1 rs2)
      else if f7 = 0b0001011 then .ok (.sinvalVma rs1 rs2)
      else decodeCustom (encodeR f7 rs2 rs1) := by
  have word (v : BitVec 32) (hv : funct7Of v ∈ [0#7, 0b0001000#7, 0b0011000#7, 0b0111000#7]) : encodeR f7 rs2 rs1 ≠ v :=
    ne_of_funct7 fun e => h (by rwa [← e, funct7Of_encodeR] at hv)
  rw [decodePriv, if_neg (word _ (by decide)), if_neg (word _ (by decide)), if_neg (word _ (by decide)),
    if_neg (word _ (by decide)), if_neg (word _ (by decide)), if_neg (word _ (by decide))]
  simp

/-- The decoder undoes the encoder, row by row. -/
theorem decodeWord_encode (i : Instr) : decodeWord (encode i) = .ok i := by
  cases i with
  | csrrw | csrrs | csrrc | csrrwi | csrrsi | csrrci => exact (decodeWord_encodeI ..).trans (by simp [decodeSystem])
  | ecall | ebreak | sret | mret | mnret | wfi | cEbreak => rfl
  | sfenceVma | sinvalVma => exact (decodeWord_encodeR ..).trans ((decodePriv_encodeR _ _ (by decide)).trans (by simp))
  | custom100011 | custom110011 | custom100111 | custom110111 | custom101011 | custom111011 | custom101111
  | custom111111 => exact (decodeWord_encodeCustom (by decide) ..).trans (by simp [decodeCustom])

/-- Every instruction but C.EBREAK is a word of the SYSTEM major opcode. -/
theorem opcodeOf_encode (i : Instr) (h : i ≠ .cEbreak) : opcodeOf (encode i) = systemOpcode := by
  cases i with
  | cEbreak => exact absurd rfl h
  | csrrw | csrrs | csrrc | csrrwi | csrrsi | csrrci | ecall | ebreak | sret | mret | mnret | wfi =>
    exact opcodeOf_encodeI ..
  | sfenceVma | sinvalVma => exact opcodeOf_encodeR ..
  | custom100011 | custom110011 | custom100111 | custom110111 | custom101011 | custom111011 | custom101111
  | custom111111 => exact opcodeOf_encodeCustom ..

/-! ### Words and their bytes (R330, 20_memory.md R252) -/

theorem toNat_append_byte {n : Nat} (x : BitVec n) (b : Byte) : (x ++ b).toNat = b.toNat + 256 * x.toNat := by
  rw [BitVec.toNat_append, ← Nat.shiftLeft_add_eq_or_of_lt b.isLt, Nat.shiftLeft_eq]
  omega

theorem toNat_halfOfBytes (b0 b1 : Byte) : (halfOfBytes b0 b1).toNat = Machine.bytesToNat [b0, b1] := by
  rw [halfOfBytes, toNat_append_byte]
  rfl

theorem toNat_wordOfBytes (b0 b1 b2 b3 : Byte) : (wordOfBytes b0 b1 b2 b3).toNat = Machine.bytesToNat [b0, b1, b2, b3] := by
  rw [wordOfBytes, toNat_append_byte, toNat_append_byte, toNat_append_byte]
  rfl

/-- Length is told by the remainder of the first byte. -/
theorem isLong_iff (b : Byte) : isLong b = true ↔ b.toNat % 4 = 3 := by
  rw [isLong, beq_iff_eq, ← BitVec.toNat_inj, BitVec.extractLsb'_toNat]
  rfl

/-- A word of the SYSTEM major opcode is 32 bits long. -/
theorem isLong_of_opcode {w : BitVec 32} (h : opcodeOf w = systemOpcode) : isLong (w.extractLsb' 0 8) = true := by
  have low : w.toNat % 128 = 115 := by simpa [opcodeOf, systemOpcode] using congrArg BitVec.toNat h
  rw [isLong_iff, BitVec.extractLsb'_toNat, Nat.shiftRight_zero]
  omega

theorem wordOfBytes_extractLsb' (w : BitVec 32) :
    wordOfBytes (w.extractLsb' 0 8) (w.extractLsb' 8 8) (w.extractLsb' 16 8) (w.extractLsb' 24 8) = w := by
  have bound := w.isLt
  refine BitVec.eq_of_toNat_eq ?_
  simp only [toNat_wordOfBytes, Machine.bytesToNat, BitVec.extractLsb'_toNat, Nat.shiftRight_eq_div_pow]
  omega

/-- The four bytes of a 32-bit word, followed by others. -/
theorem decodeBytes_bytesOfWord {w : BitVec 32} (h : isLong (w.extractLsb' 0 8) = true) (rest : List Byte) :
    decodeBytes (bytesOfWord w ++ rest) = (decodeWord w).map (fun i => (i, rest)) := by
  conv_rhs => rw [← wordOfBytes_extractLsb' w]
  exact if_pos h

/-- Settles O3: C.EBREAK by evaluation, any other instruction through its word. -/
theorem decodeBytesEncodeBytes : Obligations.DecodeBytesEncodeBytes := by
  intro i rest
  by_cases short : i = .cEbreak
  · subst short
    rfl
  · have bytes : encodeBytes i = bytesOfWord (encode i) := by
      cases i with
      | cEbreak => exact absurd rfl short
      | _ => rfl
    rw [bytes, decodeBytes_bytesOfWord (isLong_of_opcode (opcodeOf_encode i short)), decodeWord_encode]
    rfl

end Sys2Proof

namespace Sys2Proof.Machine

/-! ### Fetching (20_memory.md R287, log entry 24) -/

theorem ofNat_bytesToNat_two (b0 b1 : Byte) :
    BitVec.ofNat 32 (bytesToNat [b0, b1]) = (halfOfBytes b0 b1).setWidth 32 := by
  rw [← toNat_halfOfBytes, BitVec.ofNat_toNat]

theorem ofNat_bytesToNat_four (b0 b1 b2 b3 : Byte) :
    BitVec.ofNat 32 (bytesToNat [b0, b1, b2, b3]) = wordOfBytes b0 b1 b2 b3 := by
  rw [← toNat_wordOfBytes, BitVec.ofNat_toNat, BitVec.setWidth_eq]

/-- The length of an instruction is told by its first half as by its first byte. -/
theorem low_half_eq_iff_isLong (b0 b1 : Byte) :
    ((halfOfBytes b0 b1).setWidth 32).extractLsb' 0 2 = 0b11#2 ↔ isLong b0 = true := by
  rw [isLong_iff, ← BitVec.toNat_inj]
  simp only [BitVec.extractLsb'_toNat, BitVec.toNat_setWidth, toNat_halfOfBytes, bytesToNat, Nat.shiftRight_zero,
    BitVec.toNat_ofNat]
  omega

/-- Two halves, the lower one first, are the word of their bytes. -/
theorem halves_eq_wordOfBytes (b0 b1 b2 b3 : Byte) :
    (halfOfBytes b0 b1).setWidth 32 ||| (halfOfBytes b2 b3).setWidth 32 <<< 16 = wordOfBytes b0 b1 b2 b3 := by
  have low := (halfOfBytes b0 b1).isLt
  have high := (halfOfBytes b2 b3).isLt
  refine BitVec.eq_of_toNat_eq ?_
  have cut : (halfOfBytes b2 b3).toNat <<< 16 % 2 ^ 32 = (halfOfBytes b2 b3).toNat <<< 16 := by
    rw [Nat.shiftLeft_eq]
    omega
  rw [BitVec.toNat_or, BitVec.toNat_shiftLeft, BitVec.toNat_setWidth_of_le (by decide),
    BitVec.toNat_setWidth_of_le (by decide), cut, Nat.or_comm, ← Nat.shiftLeft_add_eq_or_of_lt low, Nat.shiftLeft_eq,
    toNat_halfOfBytes, toNat_halfOfBytes, toNat_wordOfBytes]
  simp only [bytesToNat]
  omega

/-- An operation of a fetch that may execute answers its bytes. -/
theorem State.fetchOp_of_pass {s : State} {v : Word} {n : Nat} (h : s.opCheck v.toNat n .fetch .plain s.priv = .pass) :
    s.fetchOp v n = .ok (BitVec.ofNat 32 (bytesToNat (s.physReadAll (byteRange v.toNat n)))) := by
  rw [State.fetchOp, h]

theorem State.fetchOp_two {s : State} {v : Word} (h : s.opCheck v.toNat 2 .fetch .plain s.priv = .pass) :
    s.fetchOp v 2 = .ok ((halfOfBytes (s.byteAt v.toNat) (s.byteAt (v.toNat + 1))).setWidth 32) := by
  rw [State.fetchOp_of_pass h, ← ofNat_bytesToNat_two]
  rfl

theorem State.fetchOp_four {s : State} {v : Word} (h : s.opCheck v.toNat 4 .fetch .plain s.priv = .pass) :
    s.fetchOp v 4 = .ok (wordOfBytes (s.byteAt v.toNat) (s.byteAt (v.toNat + 1)) (s.byteAt (v.toNat + 2))
      (s.byteAt (v.toNat + 3))) := by
  rw [State.fetchOp_of_pass h, ← ofNat_bytesToNat_four]
  rfl

/-- Settles O8: one operation of four bytes, or of two, and a second one behind a first half that says so. -/
theorem fetchReadsLittleEndian : Obligations.FetchReadsLittleEndian := by
  refine fun s => ⟨fun c four => ?_, fun c two short => ?_, fun c two long next => ?_⟩
  · simp [State.fetch, c, State.fetchOp_four four]
  · have stop := mt (low_half_eq_iff_isLong _ (s.byteAt (s.pcAddr.toNat + 1))).mp (Bool.eq_false_iff.mp short)
    simp only [State.fetch, c, State.fetchOp_two two, if_true, if_neg stop]
  · have go := (low_half_eq_iff_isLong _ (s.byteAt (s.pcAddr.toNat + 1))).mpr long
    simp only [State.fetch, c, State.fetchOp_two two, State.fetchOp_two next, if_true, if_pos go, halves_eq_wordOfBytes]

end Sys2Proof.Machine

/-! SUPPORT. Memory: canonical memories, the bytes of values, and what stores and loads of plain memory do (20_memory.md R250
to R252, R285, R286). -/

namespace Sys2Proof.Machine

/-! ### Canonical memories (R250) -/

/-- No cell of a canonical memory stands at its bound or below it. -/
theorem Memory.read_of_wfAbove {m : Memory} {l a : Nat} (wf : Memory.wfAbove (some l) m = true) (h : a ≤ l) :
    Memory.read m a = Memory.unlisted := by
  induction m generalizing l with
  | nil => rfl
  | cons c m ih =>
    obtain ⟨above, -, tail⟩ := (Memory.wfAbove_cons _ _ _).mp wf
    have lt : l < c.1 := above l rfl
    rw [Memory.read_cons, if_neg (by omega), ih tail (by omega)]

@[simp] theorem Memory.read_cons_self (c : Host.Cell) (m : Memory) : Memory.read (c :: m) c.1 = c.2 := by
  simp [Memory.read_cons]

/-- The first address that a canonical memory lists is the first that does not read as unlisted. -/
theorem Memory.head_le {lo : Option Nat} {c : Host.Cell} {m : Memory} (wf : Memory.wfAbove lo (c :: m) = true) {a : Nat}
    (h : Memory.read (c :: m) a ≠ Memory.unlisted) : c.1 ≤ a := by
  obtain ⟨-, -, tail⟩ := (Memory.wfAbove_cons _ _ _).mp wf
  by_contra before
  refine h ?_
  rw [Memory.read_cons, if_neg (by omega), Memory.read_of_wfAbove tail (by omega)]

/-- Canonical memories that read the same are equal, whatever their bounds. -/
theorem Memory.eq_of_read_eq {m m' : Memory} {lo lo' : Option Nat} (wf : Memory.wfAbove lo m = true)
    (wf' : Memory.wfAbove lo' m' = true) (h : ∀ a, Memory.read m a = Memory.read m' a) : m = m' := by
  induction m generalizing m' lo lo' with
  | nil =>
    cases m' with
    | nil => rfl
    | cons d m' =>
      obtain ⟨-, listed, -⟩ := (Memory.wfAbove_cons _ _ _).mp wf'
      exact absurd (by simpa using (h d.1).symm) listed
  | cons c m ih =>
    obtain ⟨-, listed, tail⟩ := (Memory.wfAbove_cons _ _ _).mp wf
    cases m' with
    | nil => exact absurd (by simpa using h c.1) listed
    | cons d m' =>
      obtain ⟨-, listed', tail'⟩ := (Memory.wfAbove_cons _ _ _).mp wf'
      have address : c.1 = d.1 := Nat.le_antisymm
        (Memory.head_le wf (by rwa [h, Memory.read_cons_self])) (Memory.head_le wf' (by rwa [← h, Memory.read_cons_self]))
      have cell : c = d := Prod.ext address
        (by rw [← Memory.read_cons_self c m, h, address, Memory.read_cons_self])
      subst cell
      refine congrArg _ (ih tail tail' fun a => ?_)
      by_cases here : a = c.1
      · rw [Memory.read_of_wfAbove tail here.le, Memory.read_of_wfAbove tail' here.le]
      · simpa [Memory.read_cons, Ne.symm here] using h a

/-- Settles O57: the two lists agree cell by cell, from the lowest address on. -/
theorem memoryIsExtensional : Obligations.MemoryIsExtensional := fun _ _ => Memory.eq_of_read_eq

/-! ### The bytes of a value (R251) -/

@[simp] theorem length_natToBytes (n v : Nat) : (natToBytes n v).length = n := by
  induction n generalizing v with
  | zero => rfl
  | succ n ih => simp [natToBytes, ih]

theorem getElem?_natToBytes {n k : Nat} (v : Nat) (h : k < n) :
    (natToBytes n v)[k]? = some (BitVec.ofNat 8 (v >>> (8 * k))) := by
  induction n generalizing v k with
  | zero => exact absurd h (Nat.not_lt_zero k)
  | succ n ih =>
    cases k with
    | zero => rfl
    | succ k =>
      rw [show 8 * (k + 1) = 8 + 8 * k by omega, Nat.shiftRight_add, Nat.shiftRight_eq_div_pow v 8]
      exact ih (v / 256) (Nat.lt_of_succ_lt_succ h)

/-- The n low bytes are the value modulo 2^(8n). -/
theorem bytesToNat_natToBytes (n v : Nat) : bytesToNat (natToBytes n v) = v % 2 ^ (8 * n) := by
  induction n generalizing v with
  | zero => simp [natToBytes, bytesToNat, Nat.mod_one]
  | succ n ih =>
    rw [natToBytes, bytesToNat, ih, Nat.mul_succ, Nat.add_comm (8 * n) 8, Nat.pow_add, Nat.mod_mul, BitVec.toNat_ofNat]

@[simp] theorem State.length_inOrder (s : State) (bs : List Byte) : (s.inOrder bs).length = bs.length := by
  unfold State.inOrder
  split <;> simp

/-- Ordering the bytes twice gives them back. -/
@[simp] theorem State.inOrder_inOrder (s : State) (bs : List Byte) : s.inOrder (s.inOrder bs) = bs := by
  unfold State.inOrder
  split <;> simp

theorem State.getElem?_inOrder (s : State) {bs : List Byte} {k : Nat} (h : k < bs.length) :
    (s.inOrder bs)[k]? = bs[if s.bigEndian s.effPriv then bs.length - 1 - k else k]? := by
  unfold State.inOrder
  split
  · exact List.getElem?_reverse h
  · rfl

/-! ### The addresses of an access (R250) -/

@[simp] theorem State.length_accessAddrs (s : State) (ea : Word) (n : Nat) : (s.accessAddrs ea n).length = n := by
  simp [State.accessAddrs]

theorem State.getElem?_accessAddrs (s : State) (ea : Word) {n k : Nat} (h : k < n) :
    (s.accessAddrs ea n)[k]? = some (s.effAddr (ea + BitVec.ofNat 64 k)).toNat := by
  simp [State.accessAddrs, h]

theorem State.getElem?_physReadAll (s : State) (as : List Nat) (k : Nat) :
    (s.physReadAll as)[k]? = as[k]?.map s.physRead :=
  List.getElem?_map

/-- Cutting to an XLEN leaves the low 32 bits. -/
theorem toNat_narrow_mod (x : Xlen) (v : Word) : (narrow x v).toNat % 2 ^ 32 = v.toNat % 2 ^ 32 := by
  cases x with
  | x64 => rfl
  | x32 => simp [narrow]

/-- The bytes of an access stand at different addresses, also where it wraps: it is shorter than the address space. -/
theorem State.nodup_accessAddrs (s : State) (ea : Word) {n : Nat} (h : n ≤ 2 ^ 32) : (s.accessAddrs ea n).Nodup := by
  refine List.Nodup.map_on (fun j hj k hk same => ?_) List.nodup_range
  have low := congrArg (· % 2 ^ 32) same
  simp only [State.effAddr, toNat_narrow_mod, BitVec.toNat_add, BitVec.toNat_ofNat] at low
  rw [List.mem_range] at hj hk
  omega

/-! ### Stores to plain memory (R286) -/

theorem State.physWrite_of_plain {s : State} {a : Nat} (h : deviceAt s.cfg a = none) (b : Byte) :
    s.physWrite a b = s.setMem (Memory.write s.mem a b) := by
  rw [State.physWrite, h]

/-- Bytes written to plain memory change memory alone. -/
theorem State.physWriteAll_of_plain {s : State} {cs : List (Nat × Byte)} (h : ∀ c ∈ cs, deviceAt s.cfg c.1 = none) :
    ∃ m, s.physWriteAll cs = s.setMem m := by
  induction cs generalizing s with
  | nil => exact ⟨s.mem, rfl⟩
  | cons c cs ih =>
    obtain ⟨here, rest⟩ := List.forall_mem_cons.mp h
    obtain ⟨m, eq⟩ := ih (s := s.physWrite c.1 c.2) (by simpa using rest)
    exact ⟨m, eq.trans (by rw [State.physWrite_of_plain here]; rfl)⟩

/-- A byte that a write to plain memory does not address, in memory or in a window, reads as before. -/
theorem State.physRead_physWrite_of_ne {s : State} {a a' : Nat} (b : Byte) (plain : deviceAt s.cfg a = none)
    (ne : a' ≠ a) : (s.physWrite a b).physRead a' = s.physRead a' := by
  rw [State.physWrite_of_plain plain]
  unfold State.physRead
  split <;> simp_all [State.deviceValue]

theorem State.physRead_physWriteAll_of_notMem {s : State} {cs : List (Nat × Byte)} {a : Nat}
    (plain : ∀ c ∈ cs, deviceAt s.cfg c.1 = none) (h : ∀ c ∈ cs, a ≠ c.1) :
    (s.physWriteAll cs).physRead a = s.physRead a := by
  induction cs generalizing s with
  | nil => rfl
  | cons c cs ih =>
    obtain ⟨here, rest⟩ := List.forall_mem_cons.mp plain
    obtain ⟨ne, other⟩ := List.forall_mem_cons.mp h
    exact (ih (s := s.physWrite c.1 c.2) (by simpa using rest) other).trans
      (State.physRead_physWrite_of_ne c.2 here ne)

/-- Bytes written at different addresses of plain memory are read back there. -/
theorem State.physReadAll_physWriteAll {s : State} {as : List Nat} {bs : List Byte}
    (plain : ∀ a ∈ as, deviceAt s.cfg a = none) (distinct : as.Nodup) (len : as.length = bs.length) :
    (s.physWriteAll (as.zip bs)).physReadAll as = bs := by
  induction as generalizing s bs with
  | nil => exact (List.eq_nil_of_length_eq_zero len.symm).symm
  | cons a as ih =>
    cases bs with
    | nil => exact absurd len (by simp)
    | cons b bs =>
      obtain ⟨here, rest⟩ := List.forall_mem_cons.mp plain
      obtain ⟨fresh, distinct⟩ := List.nodup_cons.mp distinct
      have rest' : ∀ a' ∈ as, deviceAt (s.physWrite a b).cfg a' = none := by simpa using rest
      have unwritten : ∀ c ∈ as.zip bs, a ≠ c.1 := fun c hc e => fresh (e ▸ (List.of_mem_zip hc).1)
      have head : ((s.physWrite a b).physWriteAll (as.zip bs)).physRead a = b := by
        rw [State.physRead_physWriteAll_of_notMem (fun c hc => rest' _ (List.of_mem_zip hc).1) unwritten,
          State.physRead_physWrite s a a b here here, if_pos rfl]
      exact congrArg₂ _ head (ih rest' distinct (Nat.succ.inj len))

theorem State.mem_accessAddrs_of_mem_storeCells {s : State} {ea v : Word} {n : Nat} {c : Nat × Byte}
    (h : c ∈ s.storeCells ea n v) : c.1 ∈ s.accessAddrs ea n :=
  (List.of_mem_zip h).1

/-- A store whose checks pass performs all its byte writes. -/
theorem State.memWrite_of_pass {s : State} {ea : Word} {n : Nat} {k : AccessClass}
    (h : s.accessVerdict ea n .write k = .pass) (v : Word) :
    s.memWrite ea n v k = .ok (s.physWriteAll (s.storeCells ea n v)) := by
  rw [State.memWrite, h]

section

variable {s : State} {ea : Word} {n : Nat} (plain : ∀ a ∈ s.accessAddrs ea n, deviceAt s.cfg a = none)

include plain

/-- What a store to plain memory has written stands at its addresses, in the order of the effective mode. -/
theorem State.physReadAll_storeCells (small : n ≤ 2 ^ 32) (v : Word) :
    (s.physWriteAll (s.storeCells ea n v)).physReadAll (s.accessAddrs ea n) = s.inOrder (natToBytes n v.toNat) :=
  State.physReadAll_physWriteAll plain (s.nodup_accessAddrs ea small) (by simp)

/-- A store to plain memory changes memory alone. -/
theorem State.storeCells_of_plain (v : Word) : ∃ m, s.physWriteAll (s.storeCells ea n v) = s.setMem m :=
  State.physWriteAll_of_plain fun _ hc => plain _ (State.mem_accessAddrs_of_mem_storeCells hc)

/-- Byte k of the access after a store is byte k of the value, in the order of the effective mode. -/
theorem State.byteAt_storeCells (small : n ≤ 2 ^ 32) (v : Word) (k : Nat) (hk : k < n) :
    (s.physWriteAll (s.storeCells ea n v)).byteAt (s.effAddr (ea + BitVec.ofNat 64 k)).toNat =
      v.extractLsb' (8 * (if s.bigEndian s.effPriv then n - 1 - k else k)) 8 := by
  have byte := congrArg (·[k]?) (State.physReadAll_storeCells plain small v)
  have inside : (if s.bigEndian s.effPriv then n - 1 - k else k) < n := by split <;> omega
  rw [State.getElem?_physReadAll, s.getElem?_accessAddrs ea hk, s.getElem?_inOrder (by simpa using hk), length_natToBytes,
    getElem?_natToBytes _ inside] at byte
  exact Option.some.inj byte

end

/-- An access of an instruction is shorter than the address space. -/
theorem le_of_accessWidth {n : Nat} (h : n = 1 ∨ n = 2 ∨ n = 4 ∨ n = 8) : n ≤ 2 ^ 32 := by omega

/-- Settles O44: the store performs its byte writes, at different addresses that no window holds. -/
theorem storeWritesItsBytes : Obligations.StoreWritesItsBytes := by
  intro s ea v n width plain pass
  obtain ⟨m, eq⟩ := State.storeCells_of_plain plain v
  refine ⟨_, State.memWrite_of_pass pass v, ?_, State.byteAt_storeCells plain (le_of_accessWidth width) v,
    fun a outside => ?_⟩
  · rw [eq]
    rfl
  · exact State.physRead_physWriteAll_of_notMem (fun c hc => plain _ (State.mem_accessAddrs_of_mem_storeCells hc))
      fun c hc e => outside (e ▸ State.mem_accessAddrs_of_mem_storeCells hc)

/-! ### Loads (R285) -/

/-- The addresses of an access do not depend on memory. -/
@[simp] theorem State.accessAddrs_setMem (s : State) (m : Memory) (ea : Word) (n : Nat) :
    (s.setMem m).accessAddrs ea n = s.accessAddrs ea n := rfl

/-- Nor does the order of its bytes. -/
@[simp] theorem State.inOrder_setMem (s : State) (m : Memory) (bs : List Byte) :
    (s.setMem m).inOrder bs = s.inOrder bs := rfl

/-- A load whose checks pass answers the value of its bytes. -/
theorem State.memRead_of_pass {s : State} {ea : Word} {n : Nat} {k : AccessClass}
    (h : s.accessVerdict ea n .read k = .pass) :
    s.memRead ea n k = .ok (BitVec.ofNat 64 (bytesToNat (s.inOrder (s.physReadAll (s.accessAddrs ea n))))) := by
  rw [State.memRead, h]

/-- Settles O45: the load reads the bytes of the store back and puts them in the order that they had. -/
theorem loadAfterStore : Obligations.LoadAfterStore := by
  intro s t ea v n width plain store pass
  have written := s.memWrite_ok t ea v n .plain store
  have bytes := State.physReadAll_storeCells plain (le_of_accessWidth width) v
  obtain ⟨m, eq⟩ := State.storeCells_of_plain plain v
  rw [eq] at written bytes
  subst written
  rw [State.memRead_of_pass pass, State.accessAddrs_setMem, State.inOrder_setMem, bytes, State.inOrder_inOrder,
    bytesToNat_natToBytes]

end Sys2Proof.Machine

/-! SUPPORT. The checks before an access: PMP without Smepmp (20_memory.md R271 to R275), and the alignment of loads and
stores (20_memory.md R265, R285, R286). -/

namespace Sys2Proof.Machine

/-! ### The deciding entry (R273) -/

theorem mem_byteRange {a n b : Nat} : b ∈ byteRange a n ↔ a ≤ b ∧ b < a + n := by
  rw [byteRange, List.mem_map]
  constructor
  · rintro ⟨k, hk, rfl⟩
    rw [List.mem_range] at hk
    omega
  · rintro ⟨low, high⟩
    exact ⟨b - a, List.mem_range.mpr (by omega), by omega⟩

/-- An entry matches no byte of an operation. -/
theorem State.any_pmpMatches_eq_false {s : State} {i a n : Nat} :
    (byteRange a n).any (s.pmpMatches i) = false ↔ ∀ b, a ≤ b → b < a + n → s.pmpMatches i b = false := by
  simp only [List.any_eq_false, mem_byteRange, and_imp, Bool.not_eq_true]

theorem State.any_pmpMatches {s : State} {i a n : Nat} :
    (byteRange a n).any (s.pmpMatches i) = true ↔ ∃ b, a ≤ b ∧ b < a + n ∧ s.pmpMatches i b = true := by
  simp only [List.any_eq_true, mem_byteRange, and_assoc]

theorem State.all_pmpMatches {s : State} {i a n : Nat} :
    (byteRange a n).all (s.pmpMatches i) = true ↔ ∀ b, a ≤ b → b < a + n → s.pmpMatches i b = true := by
  simp only [List.all_eq_true, mem_byteRange, and_imp]

theorem State.pmpFirst_eq_none {s : State} {a n : Nat} :
    s.pmpFirst a n = none ↔ ∀ i, i < s.cfg.pmpN.num → ∀ b, a ≤ b → b < a + n → s.pmpMatches i b = false := by
  simp only [State.pmpFirst, List.find?_eq_none, List.mem_range, Bool.not_eq_true, State.any_pmpMatches_eq_false]

theorem State.pmpFirst_eq_some {s : State} {a n i : Nat} :
    s.pmpFirst a n = some i ↔
      (∃ b, a ≤ b ∧ b < a + n ∧ s.pmpMatches i b = true) ∧ i < s.cfg.pmpN.num ∧
        ∀ j, j < i → ∀ b, a ≤ b → b < a + n → s.pmpMatches j b = false := by
  simp only [State.pmpFirst, List.find?_range_eq_some, List.mem_range, Bool.not_eq_true', State.any_pmpMatches,
    State.any_pmpMatches_eq_false]

theorem State.pmpMatches_of_off {s : State} {i : Nat} (h : (s.pmpEntry i).cfg.a = .off) (b : Nat) :
    s.pmpMatches i b = false := by
  rw [State.pmpMatches, h]

/-! ### The check (R274, R275) -/

/-- Without Smepmp an operation that no entry matches passes exactly in M-mode. -/
theorem State.pmpCheck_of_noMatch {s : State} {a n : Nat} {ty : AccessType} {ep : Priv} (mml : s.seccfg.mml = false)
    (mmwp : s.seccfg.mmwp = false) (entries : s.cfg.pmpN ≠ .none)
    (h : ∀ i, i < s.cfg.pmpN.num → ∀ b, a ≤ b → b < a + n → s.pmpMatches i b = false) :
    s.pmpCheck a n ty ep = (ep == .m) := by
  simp [State.pmpCheck, entries, State.pmpFirst_eq_none.mpr h, State.pmpNoMatch, mml, mmwp]

/-- Without Smepmp the first entry that matches a byte decides. -/
theorem State.pmpCheck_of_first {s : State} {a n i : Nat} {ty : AccessType} {ep : Priv} (mml : s.seccfg.mml = false)
    (h : s.pmpFirst a n = some i) :
    s.pmpCheck a n ty ep = ((byteRange a n).all (s.pmpMatches i) && allowsPlain (s.pmpEntry i).cfg ty ep) := by
  have implemented : s.cfg.pmpN ≠ .none := fun without => by
    obtain ⟨-, lt, -⟩ := State.pmpFirst_eq_some.mp h
    rw [without] at lt
    exact absurd lt (Nat.not_lt_zero i)
  simp [State.pmpCheck, implemented, h, mml]

/-- Settles O47: the deciding entry is the first one that matches a byte; with all entries off there is none. -/
theorem pmpCheck : Obligations.PmpCheck := by
  intro s a n ty ep mml mmwp
  refine ⟨fun without => if_pos without, State.pmpCheck_of_noMatch mml mmwp, fun entries off below => ?_,
    fun i lt before hit => ?_⟩
  · rw [State.pmpCheck_of_noMatch mml mmwp entries fun i hi b _ _ => State.pmpMatches_of_off (off i hi) b]
    exact beq_false_of_ne below
  · have check := State.pmpCheck_of_first (ty := ty) (ep := ep) mml (State.pmpFirst_eq_some.mpr ⟨hit, lt, before⟩)
    refine ⟨fun ⟨b, low, high, miss⟩ => ?_, fun all => ?_⟩
    · have partly : (byteRange a n).all (s.pmpMatches i) = false := by
        rw [List.all_eq_false]
        exact ⟨b, mem_byteRange.mpr ⟨low, high⟩, by simp [miss]⟩
      rw [check, partly, Bool.false_and]
    · rw [check, State.all_pmpMatches.mpr all, Bool.true_and, allowsPlain]

/-! ### Alignment (R265, 12_state_config_pmp_mmio.md R233) -/

/-- A misaligned access that touches a window is an access fault at the first byte there. -/
theorem State.accessVerdict_of_misalignedDevice {s : State} {ea : Word} {n b : Nat} (odd : (s.effAddr ea).toNat % n ≠ 0)
    (h : (s.accessAddrs ea n).find? (fun a => (deviceAt s.cfg a).isSome) = some b) (t : AccessType) (k : AccessClass) :
    s.accessVerdict ea n t k = .exc (faultCode t k) (asTval b) := by
  have device : s.misalignedDevice ea n = some b := (if_neg odd).trans h
  simp only [State.accessVerdict, device]

/-- Outside a granule, where every misaligned access raises, alignment leaves nothing else to a plain access. -/
theorem alignVerdict_of_raiseMisaligned {c : Cfg} {a n : Nat} (odd : a % n ≠ 0)
    (kind : c.misalignedKind = .raiseMisaligned) (granule : inGranule c a n = false) (as : List Nat) (t : AccessType) :
    alignVerdict c a n as t .plain = .misaligned none := by
  simp [alignVerdict, odd, kind, granule]

theorem State.accessVerdict_of_raiseMisaligned {s : State} {ea : Word} {n : Nat} (odd : (s.effAddr ea).toNat % n ≠ 0)
    (plain : ∀ a ∈ s.accessAddrs ea n, deviceAt s.cfg a = none) (kind : s.cfg.misalignedKind = .raiseMisaligned)
    (first : s.cfg.misalignedFirst = true) (granule : inGranule s.cfg (s.effAddr ea).toNat n = false) (t : AccessType) :
    s.accessVerdict ea n t .plain = .exc (misalignedCode t .plain) (s.effAddr ea) := by
  have noDevice : s.misalignedDevice ea n = none := by
    refine (if_neg odd).trans (List.find?_eq_none.mpr fun a ha => ?_)
    simp [plain a ha]
  simp [State.accessVerdict, noDevice, alignVerdict_of_raiseMisaligned odd kind granule, first]

/-- A load whose checks raise leaves the state as it was. -/
theorem State.memRead_of_exc {s : State} {ea tval : Word} {n code : Nat} {k : AccessClass}
    (h : s.accessVerdict ea n .read k = .exc code tval) : s.memRead ea n k = .exc s code tval := by
  rw [State.memRead, h]

/-- So does a store. -/
theorem State.memWrite_of_exc {s : State} {ea tval : Word} {n code : Nat} {k : AccessClass}
    (h : s.accessVerdict ea n .write k = .exc code tval) (v : Word) : s.memWrite ea n v k = .exc s code tval := by
  rw [State.memWrite, h]

/-- Settles O46: the verdict of the access, for a load and for a store. -/
theorem misalignedAccessRaises : Obligations.MisalignedAccessRaises := by
  refine fun s ea v n odd => ⟨fun b device => ?_, fun plain kind first granule => ?_⟩
  · have verdict (t) := State.accessVerdict_of_misalignedDevice odd device t .plain
    exact ⟨State.memRead_of_exc (verdict .read), State.memWrite_of_exc (verdict .write) v⟩
  · have verdict := State.accessVerdict_of_raiseMisaligned odd plain kind first granule
    exact ⟨State.memRead_of_exc (verdict .read), State.memWrite_of_exc (verdict .write) v⟩

end Sys2Proof.Machine

/-! SUPPORT. The encoder undoes the decoder: a word is put together again from its fields (30_encoding.md R335), so that no
row of R336 leaves a bit of it open. -/

namespace Sys2Proof

/-! ### Words from their fields (R335) -/

/-- A word of the SYSTEM major opcode, from the fields of the I format. -/
theorem encodeI_fields {w : BitVec 32} (op : opcodeOf w = systemOpcode) :
    encodeI (csrOf w) (rs1Of w) (funct3Of w) (rdOf w) = w := by
  rw [encodeI, ← op]
  calc csrOf w ++ rs1Of w ++ funct3Of w ++ rdOf w ++ opcodeOf w
      = w.extractLsb' 15 17 ++ funct3Of w ++ rdOf w ++ opcodeOf w :=
        congrArg (· ++ funct3Of w ++ rdOf w ++ opcodeOf w) (BitVec.extractLsb'_append_extractLsb'_eq_extractLsb' rfl)
    _ = w.extractLsb' 12 20 ++ rdOf w ++ opcodeOf w :=
        congrArg (· ++ rdOf w ++ opcodeOf w) (BitVec.extractLsb'_append_extractLsb'_eq_extractLsb' rfl)
    _ = w.extractLsb' 7 25 ++ opcodeOf w :=
        congrArg (· ++ opcodeOf w) (BitVec.extractLsb'_append_extractLsb'_eq_extractLsb' rfl)
    _ = w.extractLsb' 0 32 := BitVec.extractLsb'_append_extractLsb'_eq_extractLsb' rfl
    _ = w := extract_self w

theorem csrOf_eq (w : BitVec 32) : csrOf w = funct7Of w ++ rs2Of w := by
  rw [funct7Of, rs2Of, BitVec.extractLsb'_append_extractLsb'_eq_extractLsb' (rfl : 25 = 20 + 5), csrOf]

theorem csrOf_append_rs1Of (w : BitVec 32) : csrOf w ++ rs1Of w = funct6Of w ++ customHiOf w := by
  rw [csrOf, rs1Of, funct6Of, customHiOf, BitVec.extractLsb'_append_extractLsb'_eq_extractLsb' (rfl : 20 = 15 + 5),
    BitVec.extractLsb'_append_extractLsb'_eq_extractLsb' (rfl : 26 = 15 + 11)]

/-- A PRIV word with `rd` = 0, from the fields of the R format. -/
theorem encodeR_fields {w : BitVec 32} (op : opcodeOf w = systemOpcode) (f3 : funct3Of w = 0) (rd : rdOf w = 0) :
    encodeR (funct7Of w) (rs2Of w) (rs1Of w) = w :=
  calc encodeR (funct7Of w) (rs2Of w) (rs1Of w)
      = encodeI (funct7Of w ++ rs2Of w) (rs1Of w) 0 0 := rfl
    _ = encodeI (csrOf w) (rs1Of w) (funct3Of w) (rdOf w) := by rw [csrOf_eq, f3, rd]
    _ = w := encodeI_fields op

/-- A PRIV word, from the fields of a custom SYSTEM word. -/
theorem encodeCustom_fields {w : BitVec 32} (op : opcodeOf w = systemOpcode) (f3 : funct3Of w = 0) :
    encodeCustom (funct6Of w) (customHiOf w) (rdOf w) = w :=
  calc encodeCustom (funct6Of w) (customHiOf w) (rdOf w)
      = csrOf w ++ rs1Of w ++ 0#3 ++ rdOf w ++ systemOpcode :=
        congrArg (· ++ 0#3 ++ rdOf w ++ systemOpcode) (csrOf_append_rs1Of w).symm
    _ = encodeI (csrOf w) (rs1Of w) (funct3Of w) (rdOf w) := by rw [f3]; rfl
    _ = w := encodeI_fields op

/-! ### The rows of the decoder (R336, R338) -/

/-- An answer of the decoder that names no instruction but the one whose word w is. -/
def Reencodes (w : BitVec 32) (r : Except DecodeError Instr) : Prop := ∀ i, r = .ok i → encode i = w

theorem reencodes_error (w : BitVec 32) (e : DecodeError) : Reencodes w (.error e) := nofun

theorem reencodes_ite {w : BitVec 32} {c : Prop} [Decidable c] {a b : Except DecodeError Instr} (ha : c → Reencodes w a)
    (hb : ¬c → Reencodes w b) : Reencodes w (if c then a else b) := by
  split
  · exact ha ‹_›
  · exact hb ‹_›

/-- A row of the decoder: where its condition holds, w is the word of its instruction. -/
theorem reencodes_row {w : BitVec 32} {c : Prop} [Decidable c] {i : Instr} {rest : Except DecodeError Instr}
    (row : c → encode i = w) (others : Reencodes w rest) : Reencodes w (if c then .ok i else rest) :=
  reencodes_ite (fun hc _ e => Except.ok.inj e ▸ row hc) fun _ => others

/-- A row of one word. -/
theorem reencodes_word {w v : BitVec 32} {i : Instr} {rest : Except DecodeError Instr} (word : encode i = v)
    (others : Reencodes w rest) : Reencodes w (if w = v then .ok i else rest) :=
  reencodes_row (fun e => word.trans e.symm) others

theorem reencodes_decodeCustom {w : BitVec 32} (op : opcodeOf w = systemOpcode) (f3 : funct3Of w = 0) :
    Reencodes w (decodeCustom w) := by
  have row (f6 : BitVec 6) (h : funct6Of w = f6) : encodeCustom f6 (customHiOf w) (rdOf w) = w :=
    h ▸ encodeCustom_fields op f3
  exact reencodes_row (row _) <| reencodes_row (row _) <| reencodes_row (row _) <| reencodes_row (row _) <|
    reencodes_row (row _) <| reencodes_row (row _) <| reencodes_row (row _) <| reencodes_row (row _) <|
    reencodes_error w _

theorem reencodes_decodePriv {w : BitVec 32} (op : opcodeOf w = systemOpcode) (f3 : funct3Of w = 0) :
    Reencodes w (decodePriv w) := by
  have row (f7 : BitVec 7) (h : funct7Of w = f7 ∧ rdOf w = 0) : encodeR f7 (rs2Of w) (rs1Of w) = w :=
    h.1 ▸ encodeR_fields op f3 h.2
  exact reencodes_word (i := .ecall) rfl <| reencodes_word (i := .ebreak) rfl <| reencodes_word (i := .sret) rfl <|
    reencodes_word (i := .mret) rfl <| reencodes_word (i := .mnret) rfl <| reencodes_word (i := .wfi) rfl <|
    reencodes_row (row _) <| reencodes_row (row _) <| reencodes_decodeCustom op f3

theorem reencodes_decodeSystem {w : BitVec 32} (op : opcodeOf w = systemOpcode) : Reencodes w (decodeSystem w) := by
  have row (f3 : BitVec 3) (h : funct3Of w = f3) : encodeI (csrOf w) (rs1Of w) f3 (rdOf w) = w :=
    h ▸ encodeI_fields op
  exact reencodes_row (row _) <| reencodes_row (row _) <| reencodes_row (row _) <| reencodes_row (row _) <|
    reencodes_row (row _) <| reencodes_row (row _) <|
    reencodes_ite (reencodes_decodePriv op) fun _ => reencodes_error w _

theorem reencodes_decodeWord (w : BitVec 32) : Reencodes w (decodeWord w) :=
  reencodes_word (i := .cEbreak) rfl <| reencodes_ite reencodes_decodeSystem fun _ => reencodes_error w _

/-! ### The statements -/

/-- Settles O1: the decoder undoes the encoder. -/
theorem decodeEncode : Obligations.DecodeEncode := decodeWord_encode

/-- Settles O2: every row of the decoder fixes all the bits of its words. -/
theorem encodeDecode : Obligations.EncodeDecode := reencodes_decodeWord

/-- Settles O4: the words are those that the encoder gives the eight instructions. -/
theorem decodeSampleWords : Obligations.DecodeSampleWords :=
  ⟨decodeWord_encode .ecall, decodeWord_encode .ebreak, decodeWord_encode .mret, decodeWord_encode .wfi,
    decodeWord_encode (.sfenceVma 0 0), decodeWord_encode (.custom111111 0 0), decodeWord_encode .cEbreak,
    decodeWord_encode (.csrrw 0 5 0x340)⟩

end Sys2Proof

/-! SUPPORT. Progress: on a hart with no unprivileged extension whose memory is coherent, every part of a step answers
(60_exceptions.md R510; log entries 17, 18, 28). A step stops in two ways only, each excluded in a part of its own: by an
access of incoherent memory, and by a word of an extension that is outside the source. -/

namespace Sys2Proof.Machine

/-! ### Coherent memory: no access stops (20_memory.md R259, R285 to R287; log entry 28) -/

/-- Every region of the configuration is coherent. -/
def coherentMemory (c : Cfg) : Prop := ∀ r ∈ c.pma, r.coherent = true

/-- A verdict of the PMA checker that is a pass or a fault. -/
def PmaVerdict.decided (v : PmaVerdict) : Prop := ∀ a, v ≠ .incoherent a

/-- An access that gives a value or raises an exception. -/
def Access.settles {α : Type} (r : Access α) : Prop := ∀ f, r ≠ .stop f

theorem pmaByte_decided {c : Cfg} (coherent : coherentMemory c) (n : Nat) (t : AccessType) (k : AccessClass) (a : Nat) :
    (pmaByte c n t k a).decided := by
  unfold pmaByte
  split
  · nofun
  · next r hr =>
    rw [coherent r (List.mem_of_find?_eq_some hr)]
    split <;> nofun

theorem worst_decided {vs : List PmaVerdict} (h : ∀ v ∈ vs, v.decided) : (worst vs).decided := by
  induction vs with
  | nil => nofun
  | cons v vs ih =>
    cases v with
    | pass => exact ih fun v hv => h v (List.mem_cons_of_mem _ hv)
    | fault => nofun
    | incoherent a => exact absurd rfl (h (.incoherent a) List.mem_cons_self a)

theorem pmaCheck_decided {c : Cfg} (coherent : coherentMemory c) (a n : Nat) (t : AccessType) (k : AccessClass) :
    (pmaCheck c a n t k).decided := by
  unfold pmaCheck
  split
  · split <;> nofun
  · refine worst_decided fun v hv => ?_
    obtain ⟨b, -, rfl⟩ := List.mem_map.mp hv
    exact pmaByte_decided coherent n t k b

section
variable {s : State} (coherent : coherentMemory s.cfg)
include coherent

theorem State.opCheck_decided (a n : Nat) (t : AccessType) (k : AccessClass) (ep : Priv) :
    (s.opCheck a n t k ep).decided := by
  unfold State.opCheck
  split
  · exact pmaCheck_decided coherent a n t k
  · nofun

theorem State.byteCheck_decided (n : Nat) (t : AccessType) (k : AccessClass) (ep : Priv) (a : Nat) :
    (s.byteCheck n t k ep a).decided := by
  unfold State.byteCheck
  split
  · exact pmaByte_decided coherent n t k a
  · nofun

theorem State.firstBad_decided {n : Nat} {t : AccessType} {k : AccessClass} {ep : Priv} {as : List Nat} {a : Nat}
    {v : PmaVerdict} (h : s.firstBad n t k ep as = some (a, v)) : v.decided := by
  induction as with
  | nil => cases h
  | cons b as ih =>
    unfold State.firstBad at h
    split at h
    · exact ih h
    · cases h
      exact State.byteCheck_decided coherent _ _ _ _ _

/-- No access meets incoherent memory, as one operation or byte by byte. -/
theorem State.accessVerdict_ne_stop (ea : Word) (n : Nat) (t : AccessType) (k : AccessClass) (f : Fault) :
    s.accessVerdict ea n t k ≠ .stop f := by
  simp only [State.accessVerdict]
  split
  · nofun
  · split
    · split
      · nofun
      · split <;> nofun
    · split
      · nofun
      · nofun
      · next h => exact absurd h (State.opCheck_decided coherent _ _ _ _ _ _)
    · split
      · nofun
      · next h => exact absurd rfl (State.firstBad_decided coherent h _)
      · nofun

theorem State.memRead_settles (ea : Word) (n : Nat) (k : AccessClass) : (s.memRead ea n k).settles := by
  unfold State.memRead
  split
  · nofun
  · nofun
  · nofun
  · next h => exact absurd h (State.accessVerdict_ne_stop coherent _ _ _ _ _)

theorem State.memWrite_settles (ea : Word) (n : Nat) (v : Word) (k : AccessClass) : (s.memWrite ea n v k).settles := by
  unfold State.memWrite
  split
  · nofun
  · nofun
  · nofun
  · next h => exact absurd h (State.accessVerdict_ne_stop coherent _ _ _ _ _)

theorem State.fetchOp_settles (v : Word) (n : Nat) : (s.fetchOp v n).settles := by
  unfold State.fetchOp
  split
  · nofun
  · nofun
  · next h => exact absurd h (State.opCheck_decided coherent _ _ _ _ _ _)

theorem State.fetch_settles : s.fetch.settles := by
  unfold State.fetch
  split
  · split
    · split
      · split
        · nofun
        · exact State.fetchOp_settles coherent _ _
      · nofun
    · exact State.fetchOp_settles coherent _ _
  · exact State.fetchOp_settles coherent _ _

theorem State.fetchTail_settles (n : Nat) : (s.fetchTail n).settles := by
  unfold State.fetchTail
  split
  · exact State.fetchOp_settles coherent _ _
  · split
    · split
      · nofun
      · exact State.fetchOp_settles coherent _ _
    · exact State.fetchOp_settles coherent _ _

theorem State.loadEach_settles (l : List (Word × Fin 4)) : (s.loadEach l).settles := by
  induction l with
  | nil => nofun
  | cons x l ih =>
    unfold State.loadEach
    split
    · exact ih
    · nofun
    · next h => exact absurd h (State.memRead_settles coherent _ _ _ _)

end

theorem State.storeEach_settles {s : State} (coherent : coherentMemory s.cfg) (l : List (Word × Fin 4 × Word)) :
    (s.storeEach l).settles := by
  induction l generalizing s with
  | nil => nofun
  | cons x l ih =>
    unfold State.storeEach
    split
    · next t h =>
      have same : t.cfg = s.cfg := by rw [s.memWrite_ok _ _ _ _ _ h, State.physWriteAll_cfg]
      exact ih (same ▸ coherent)
    · exact State.memWrite_settles coherent _ _ _ _

theorem State.customAccesses_settles {s : State} (coherent : coherentMemory s.cfg) (e : CustomEffect) :
    (s.customAccesses e).settles := by
  unfold State.customAccesses
  split
  · next t h =>
    rw [(s.loadEach_cases e.loads).1 t h]
    unfold State.customStores
    split
    · nofun
    · exact State.storeEach_settles coherent e.stores
  · exact State.loadEach_settles coherent e.loads

/-! ### Outcomes that answer a next state -/

/-- An outcome that is no fault and no refusal. -/
def answers (o : Host.Outcome State Fault Refusal) : Prop := ∃ t, o = .next t

theorem answers_next (t : State) : answers (.next t) := ⟨t, rfl⟩

theorem answers_ite {c : Prop} [Decidable c] {a b : Host.Outcome State Fault Refusal} (ha : answers a) (hb : answers b) :
    answers (if c then a else b) := by
  split
  · exact ha
  · exact hb

theorem answers_onAccess {α : Type} {r : Access α} (h : r.settles) (f : α → State) : answers (State.onAccess r f) := by
  cases r with
  | ok v => exact answers_next _
  | exc t c v => exact answers_next _
  | stop g => exact absurd rfl (h g)

/-! ### No other extension: no word is refused (10_state.md R23, 30_encoding.md R345; log entry 18) -/

/-- Each extension that defines words outside the source is off; those of D and Q are floating-point words, which need F. -/
structure State.BaseOnly (s : State) : Prop where
  noA : s.extA = false
  noB : s.extB = false
  noC : s.extC = false
  noF : s.extF = false
  noM : s.extM = false
  noV : s.extV = false
  noZicbom : s.cfg.ext.zicbom = false
  noZicboz : s.cfg.ext.zicboz = false
  noZicfiss : s.cfg.ext.zicfiss = false
  noOther : s.cfg.ext.otherWords = []

theorem State.baseOnly_of_mayExtend {s : State} (h : s.mayExtend = false) : s.BaseOnly := by
  simp only [State.mayExtend, Bool.or_eq_false_iff, Bool.not_eq_false', List.isEmpty_iff, and_assoc] at h
  obtain ⟨noA, noB, noC, -, noF, noM, -, noV, noZicbom, noZicboz, noZicfiss, noOther⟩ := h
  exact { noA, noB, noC, noF, noM, noV, noZicbom, noZicboz, noZicfiss, noOther }

section
variable {s : State} (base : s.BaseOnly)
include base

theorem State.BaseOnly.unknownWord (w : BitVec 32) : s.unknownWord w = .next (s.illegal w) := by
  have undefined : s.definedOutside w = false := by
    simp [State.definedOutside, State.otherDefines, base.noA, base.noB, base.noM, base.noZicfiss, base.noOther]
  simp [State.unknownWord, undefined]

theorem State.BaseOnly.answers_unknownWord (w : BitVec 32) : answers (s.unknownWord w) := ⟨_, base.unknownWord w⟩

theorem State.BaseOnly.compressed (w : BitVec 32) : s.compressed w = .next (s.illegal w) := by
  simp [State.compressed, base.noC]

theorem State.BaseOnly.floatWord (w : BitVec 32) (b : Bool) (l : List (BitVec 2)) :
    s.floatWord w b l = .next (s.illegal w) := by
  simp [State.floatWord, base.noF, base.unknownWord]

theorem State.BaseOnly.vectorWord (w : BitVec 32) : s.vectorWord w = .next (s.illegal w) := by
  simp [State.vectorWord, base.noV, base.unknownWord]

theorem State.BaseOnly.floatAccess (w : BitVec 32) : s.floatAccess w = .next (s.illegal w) := by
  simp [State.floatAccess, base.floatWord, base.vectorWord]

theorem State.BaseOnly.amo (w : BitVec 32) : s.amo w = .next (s.illegal w) := by
  simp [State.amo, base.unknownWord]

theorem State.BaseOnly.otherSystem (w : BitVec 32) : s.otherSystem w = .next (s.illegal w) := by
  simp [State.otherSystem, base.noZicfiss]

theorem State.BaseOnly.cboPresent (op : BitVec 12) : s.cboPresent op = false := by
  simp [State.cboPresent, base.noZicbom, base.noZicboz]

theorem State.BaseOnly.answers_miscMem (w : BitVec 32) : answers (s.miscMem w) := by
  simp only [State.miscMem, base.cboPresent, Bool.false_eq_true, and_false, if_false]
  exact answers_ite (answers_next _) (base.answers_unknownWord w)

/-! ### Base instructions (log entry 17) -/

theorem State.BaseOnly.answers_jalr (w : BitVec 32) : answers (s.jalr w) :=
  answers_ite (answers_next _) (base.answers_unknownWord w)

theorem State.BaseOnly.answers_branch (w : BitVec 32) : answers (s.branch w) :=
  answers_ite (base.answers_unknownWord w) (answers_ite (answers_next _) (answers_next _))

theorem State.BaseOnly.answers_opImm (w : BitVec 32) : answers (s.opImm w) :=
  answers_ite (answers_ite (answers_next _) (base.answers_unknownWord w)) (answers_next _)

theorem State.BaseOnly.answers_opReg (w : BitVec 32) : answers (s.opReg w) :=
  answers_ite (answers_next _) (answers_ite (answers_next _) (base.answers_unknownWord w))

theorem State.BaseOnly.answers_opImm32 (w : BitVec 32) : answers (s.opImm32 w) :=
  answers_ite (base.answers_unknownWord w)
    (answers_ite (answers_next _) (answers_ite (answers_next _) (base.answers_unknownWord w)))

theorem State.BaseOnly.answers_opReg32 (w : BitVec 32) : answers (s.opReg32 w) :=
  answers_ite (base.answers_unknownWord w)
    (answers_ite (answers_next _) (answers_ite (answers_next _) (base.answers_unknownWord w)))

variable (coherent : coherentMemory s.cfg)
include coherent

theorem State.BaseOnly.answers_load (w : BitVec 32) : answers (s.load w) :=
  answers_ite (base.answers_unknownWord w) (answers_onAccess (State.memRead_settles coherent _ _ _) _)

theorem State.BaseOnly.answers_store (w : BitVec 32) : answers (s.store w) :=
  answers_ite (base.answers_unknownWord w) (answers_onAccess (State.memWrite_settles coherent _ _ _ _) _)

/-- Every major opcode answers. -/
theorem State.BaseOnly.answers_baseOpcode (w : BitVec 32) : answers (s.baseOpcode w) :=
  answers_ite ⟨_, base.compressed w⟩ <|
  answers_ite (answers_next (s.finish _ _)) <|
  answers_ite (answers_next (s.auipc w)) <|
  answers_ite (answers_next (s.transfer _ _)) <|
  answers_ite (base.answers_jalr w) <|
  answers_ite (base.answers_branch w) <|
  answers_ite (base.answers_load coherent w) <|
  answers_ite (base.answers_store coherent w) <|
  answers_ite (base.answers_opImm w) <|
  answers_ite (base.answers_opReg w) <|
  answers_ite (base.answers_opImm32 w) <|
  answers_ite (base.answers_opReg32 w) <|
  answers_ite (base.answers_miscMem w) <|
  answers_ite ⟨_, base.floatAccess w⟩ <|
  answers_ite ⟨_, base.floatWord w _ _⟩ <|
  answers_ite ⟨_, base.vectorWord w⟩ <|
  answers_ite ⟨_, base.amo w⟩ <|
  answers_ite ⟨_, base.otherSystem w⟩ <|
  base.answers_unknownWord w

theorem State.BaseOnly.answers_baseExec (w : BitVec 32) : answers (s.baseExec w) :=
  answers_ite (answers_next _) (base.answers_baseOpcode coherent w)

end

/-! ### Instructions of the opcode table -/

theorem State.answers_custom {s : State} (coherent : coherentMemory s.cfg) (i : Instr) : answers (s.custom i) := by
  unfold State.custom
  refine answers_ite ?_ (answers_next _)
  split
  · exact answers_next _
  · exact answers_next _
  · exact answers_ite (answers_onAccess (State.customAccesses_settles coherent _) _) (answers_next _)

theorem answers_exec {s : State} (coherent : coherentMemory s.cfg) (i : Instr) : answers (exec i s) := by
  cases i with
  | csrrw | csrrs | csrrc | csrrwi | csrrsi | csrrci | ecall | ebreak | sret | mret | mnret | wfi | sfenceVma | sinvalVma
  | cEbreak => exact answers_next _
  | custom100011 | custom110011 | custom100111 | custom110111 | custom101011 | custom111011 | custom101111
  | custom111111 => exact State.answers_custom coherent _

/-! ### The step (60_exceptions.md R510) -/

/-- The hart has no extension whose words are outside the source, and its memory is coherent. -/
structure State.SelfContained (s : State) : Prop where
  noExtension : s.mayExtend = false
  coherent : coherentMemory s.cfg

/-- A letter of `misa` is what the configuration and `misa` make it, and the platform's part of a step changes neither. -/
theorem State.sampled_letter (s : State) (p : PlatIn) (i : Nat) (b : Bool) : (s.sampled p).letter i b = s.letter i b := by
  obtain ⟨_, _, e⟩ := s.sampled_csr p
  simp [State.letter, e]

theorem State.sampled_mayExtend (s : State) (p : PlatIn) : (s.sampled p).mayExtend = s.mayExtend := by
  simp [State.mayExtend, State.extA, State.extB, State.extC, State.extD, State.extF, State.extM, State.extQ, State.extV,
    State.sampled_letter]

namespace State.SelfContained

variable {s : State} (self : s.SelfContained)
include self

theorem baseOnly : s.BaseOnly := State.baseOnly_of_mayExtend self.noExtension

/-- Going on after a wait changes neither the configuration nor `misa`. -/
theorem running : (s.setWait .running).SelfContained := ⟨self.noExtension, self.coherent⟩

theorem sampled (p : PlatIn) : (s.sampled p).SelfContained :=
  ⟨(s.sampled_mayExtend p).trans self.noExtension, (s.sampled_cfg p).symm ▸ self.coherent⟩

theorem answers_runWord (w : BitVec 32) : answers (s.runWord w) := by
  unfold State.runWord
  split
  · exact answers_exec self.coherent _
  · exact self.baseOnly.answers_baseExec self.coherent w

theorem answers_runFetched (w : BitVec 32) : answers (s.runFetched w) :=
  answers_ite (self.answers_runWord w) (answers_onAccess (State.fetchTail_settles self.coherent _) _)

theorem answers_fetchAndRun (hwError : Option Word) : answers (s.fetchAndRun hwError) := by
  unfold State.fetchAndRun
  split
  · split
    · exact self.answers_runFetched _
    · exact answers_next _
  · exact answers_next _
  · next h => exact absurd h (State.fetch_settles self.coherent _)

theorem answers_interruptOrRun (p : PlatIn) : answers (s.interruptOrRun p) := by
  unfold State.interruptOrRun
  split
  · exact answers_next _
  · exact self.answers_fetchAndRun _

theorem answers_awake (p : PlatIn) : answers (s.awake p) :=
  answers_ite (self.answers_interruptOrRun p) <|
  answers_ite (answers_next s.idle) <|
  answers_ite (answers_next s.completeLimited) <|
  self.running.answers_interruptOrRun p

theorem answers_hartStep (p : PlatIn) : answers (s.hartStep p) := by
  unfold State.hartStep
  split
  · exact answers_next _
  · exact answers_ite (answers_next s.criticalStep) (answers_ite (answers_next s.takeNmi) (self.answers_awake p))

end State.SelfContained

/-- Settles O60: the platform's part of the step keeps what excludes both ways to stop, and the hart's part answers. -/
theorem referenceHartNeverStops : Obligations.ReferenceHartNeverStops := fun s noExtension coherent =>
  (State.SelfContained.sampled ⟨noExtension, coherent⟩ s.input).answers_hartStep s.input

end Sys2Proof.Machine

/-! SUPPORT. Access to CSRs (40_csr_access.md): what the six CSR instructions check and what they leave, on `mscratch` and on
every register, and the reserved funct3 beside them. -/

namespace Sys2Proof.Machine

/-! ### The forms of the CSR instructions (R365) -/

/-- A reading form is a use of its CSR that does not write it; its encoding is reserved only if its destination
does not exist. -/
theorem State.csrForm_of_mem_readingForms (s : State) {rd : BitVec 5} {csr : BitVec 12} {i : Instr}
    (h : i ∈ readingForms rd csr) :
    ∃ u, CsrForm s i rd csr u ∧ u.writes = false ∧ (regExists s.features rd = true → i.wellFormed s.features = true) := by
  have zero : regExists s.features 0 = true := by simp [regExists]
  simp only [readingForms, List.mem_cons, List.not_mem_nil, or_false] at h
  rcases h with rfl | rfl | rfl | rfl
  · exact ⟨_, s.csrForm_register .set rd 0 csr _ rfl, rfl, fun hrd => by rw [Instr.wellFormed, hrd, zero]; rfl⟩
  · exact ⟨_, s.csrForm_register .clear rd 0 csr _ rfl, rfl, fun hrd => by rw [Instr.wellFormed, hrd, zero]; rfl⟩
  · exact ⟨_, s.csrForm_immediate .set rd 0 csr _ rfl, rfl, id⟩
  · exact ⟨_, s.csrForm_immediate .clear rd 0 csr _ rfl, rfl, id⟩

/-- The CSR instruction that takes its operand from its immediate. -/
def CsrOp.immediateForm (o : CsrOp) (rd uimm : BitVec 5) (csr : BitVec 12) : Instr :=
  match o with
  | .write => .csrrwi rd uimm csr
  | .set => .csrrsi rd uimm csr
  | .clear => .csrrci rd uimm csr

theorem State.csrForm_immediateForm (s : State) (o : CsrOp) (rd uimm : BitVec 5) (csr : BitVec 12) :
    CsrForm s (o.immediateForm rd uimm csr) rd csr (immediateUse o rd uimm csr) :=
  s.csrForm_immediate o rd uimm csr _ (by cases o <;> rfl)

theorem CsrOp.registerForm_wellFormed (o : CsrOp) (f : Features) (rd rs1 : BitVec 5) (csr : BitVec 12) :
    (o.registerForm rd rs1 csr).wellFormed f = (regExists f rd && regExists f rs1) := by
  cases o <;> rfl

theorem CsrOp.immediateForm_wellFormed (o : CsrOp) (f : Features) (rd uimm : BitVec 5) (csr : BitVec 12) :
    (o.immediateForm rd uimm csr).wellFormed f = regExists f rd := by
  cases o <;> rfl

/-! ### The checks (R368 to R370) -/

/-- A CSR instruction is illegal if no register at its address passes the checks. -/
theorem CsrForm.raisesIllegal_of_forall {s : State} {i : Instr} {rd : BitVec 5} {csr : BitVec 12} {u : CsrUse}
    (h : CsrForm s i rd csr u) (refused : ∀ n, s.csrAt csr = some n → s.csrAllowed n csr u.writes = false) :
    Machine.raisesIllegal i s := by
  cases named : s.csrAt csr with
  | some n => exact h.raisesIllegal named (refused n named)
  | none =>
    obtain ⟨hexec, rfl, -, -⟩ := h
    have illegal : s.csrInstr u (encode i) = s.illegal (encode i) := by rw [State.csrInstr, named]
    rw [Machine.raisesIllegal, hexec, illegal, State.unlessReserved, ite_self, State.illegal]

theorem State.csrAllowed_of_not_exists (s : State) {n : CsrName} (h : s.csrExists n = false) (a : BitVec 12) (w : Bool) :
    s.csrAllowed n a w = false := by simp [State.csrAllowed, h]

theorem State.csrAllowed_of_not_privAllows (s : State) {a : BitVec 12} (h : s.privAllows a = false) (n : CsrName)
    (w : Bool) : s.csrAllowed n a w = false := by simp [State.csrAllowed, h]

theorem State.csrAllowed_of_not_special (s : State) {n : CsrName} {w : Bool} (h : s.csrSpecial w n = false)
    (a : BitVec 12) : s.csrAllowed n a w = false := by simp [State.csrAllowed, h]

theorem State.csrAllowed_of_readOnly (s : State) {a : BitVec 12} (h : csrReadOnly a = true) (n : CsrName) :
    s.csrAllowed n a true = false := by simp [State.csrAllowed, h]

/-- A form that only reads passes at a read-only address too. -/
theorem State.csrAllowed_read (s : State) {n : CsrName} {a : BitVec 12} (he : s.csrExists n = true)
    (hp : s.privAllows a = true) (hs : s.csrSpecial false n = true) : s.csrAllowed n a false = true := by
  simp [State.csrAllowed, he, hp, hs]

/-- In M-mode a register that exists, may be written and has no check of its own passes. -/
theorem State.csrAllowed_m (s : State) {n : CsrName} {a : BitVec 12} (hm : s.priv = .m) (he : s.csrExists n = true)
    (ha : csrReadOnly a = false) {w : Bool} (hs : s.csrSpecial w n = true) : s.csrAllowed n a w = true := by
  simp [State.csrAllowed, he, s.privAllows_m a hm, ha, hs]

/-- An address of the map whose register does not exist has no register that does. -/
theorem State.not_csrExists_of_csrNamed (s : State) {a : BitVec 12} {m : CsrName} (hm : csrNamed a = some m)
    (h : s.csrExists m = false) : ∀ n, s.csrAt a = some n → s.csrExists n = false := by
  intro n hn
  obtain rfl : m = n := Option.some.inj ((s.csrAt_of_csrNamed hm).symm.trans hn)
  exact h

/-- Settles O16: the five registers that the source names are addresses of the map whose register does not exist. -/
theorem nonexistentCsrIsIllegal : Obligations.NonexistentCsrIsIllegal := by
  intro s rd a csr i hi absent
  have missing : ∀ n, s.csrAt csr = some n → s.csrExists n = false := by
    rcases absent with absent | ⟨rfl, sstc⟩ | ⟨rfl, mxlen⟩ | ⟨rfl, noU⟩ | ⟨rfl | rfl, noS⟩
    · exact absent
    · exact s.not_csrExists_of_csrNamed (m := .stimecmp) (by decide) (by simp [State.csrExists, sstc])
    · exact s.not_csrExists_of_csrNamed (m := .mstatush) (by decide) (by simp [State.csrExists, State.rv32, mxlen])
    · exact s.not_csrExists_of_csrNamed (m := .mcounteren) (by decide) noU
    · exact s.not_csrExists_of_csrNamed (m := .medeleg) (by decide) noS
    · exact s.not_csrExists_of_csrNamed (m := .mideleg) (by decide) noS
  obtain ⟨u, form, -, -⟩ := s.csrForm_of_mem hi
  exact form.raisesIllegal_of_forall fun n hn => s.csrAllowed_of_not_exists (missing n hn) csr u.writes

/-- Settles O17: the mode is checked against the address, whatever register stands there. -/
theorem csrPrivilegeIsChecked : Obligations.CsrPrivilegeIsChecked := by
  intro s rd a csr i hi low
  obtain ⟨u, form, -, -⟩ := s.csrForm_of_mem hi
  have refused : s.privAllows csr = false := decide_eq_false (Nat.not_le.2 low)
  exact form.raisesIllegal_of_forall fun n _ => s.csrAllowed_of_not_privAllows refused n u.writes

/-! ### What performing a CSR instruction leaves (R371) -/

@[simp] theorem State.noteRead_misa (s : State) (n : CsrName) : (s.noteRead n).csr.misa = s.csr.misa := by
  cases n
  case custom a => exact congrArg Csrs.misa (s.customCsrNote_csr a)
  all_goals rfl

@[simp] theorem State.csrAfterRead_misa (s : State) (u : CsrUse) (n : CsrName) :
    (s.csrAfterRead u n).csr.misa = s.csr.misa := by
  unfold State.csrAfterRead; split <;> simp

/-- Which integer registers there are depends on the configuration and `misa`. -/
theorem State.rvE_congr {s t : State} (hc : t.cfg = s.cfg) (hm : t.csr.misa = s.csr.misa) : t.rvE = s.rvE := by
  rw [State.rvE, State.rvE, hc, hm]

/-- An integer register other than `rd` is as counting, reading and writing the CSR left it. -/
theorem State.csrPerform_xAt_of_ne (s : State) (u : CsrUse) (n : CsrName) {r : BitVec 5} (h : r ≠ u.rd) :
    (s.csrPerform u n).xAt r = (s.csrTouched u n).xAt r := by
  rw [State.csrPerform_eq]
  split
  · exact (s.csrTouched u n).writeX_xAt_of_ne _ _ _ _ h
  · rfl

/-- Writing a CSR leaves the registers that the hart has at the write: of the others a write of `misa` may bring some back
(10_state.md R39). -/
theorem State.csrAfterWrite_xAt (s q : State) (u : CsrUse) (n : CsrName) {r : BitVec 5}
    (h : q.rvE = false ∨ r.toNat < 16) : (s.csrAfterWrite u n q).xAt r = q.xAt r := by
  unfold State.csrAfterWrite
  split
  · simp only [State.xAt, q.csrWrite_x_get _ n r.toNat r.isLt h]
  · rfl

/-- So do counting and reading before it, which leave the configuration and `misa`. -/
theorem State.csrTouched_xAt (s : State) (u : CsrUse) (n : CsrName) {r : BitVec 5} (h : s.rvE = false ∨ r.toNat < 16) :
    (s.csrTouched u n).xAt r = s.xAt r := by
  have present : ((s.countRetired (u.skips n)).csrAfterRead u n).rvE = s.rvE := State.rvE_congr (by simp) (by simp)
  have read : ((s.countRetired (u.skips n)).csrAfterRead u n).x = s.x := by simp
  exact (s.csrAfterWrite_xAt _ u n (present ▸ h)).trans (State.xAt_congr read r)

/-- A form that only reads changes no integer register but `rd`. -/
theorem State.csrPerform_sameXBut_of_reads (s : State) (u : CsrUse) (n : CsrName) (hw : u.writes = false) :
    sameXBut u.rd s (s.csrPerform u n) := by
  intro r hr
  have touched : (s.csrTouched u n).x = s.x := by simp [State.csrTouched, State.csrAfterWrite, hw]
  exact (s.csrPerform_xAt_of_ne u n hr).trans (State.xAt_congr touched r)

/-- A reading form whose checks pass gives `rd` the value and changes no other integer register and no byte. -/
theorem State.readingForm_reads (s : State) {rd : BitVec 5} {csr : BitVec 12} {i : Instr} {n : CsrName}
    (hi : i ∈ readingForms rd csr) (hrd : regExists s.features rd = true) (hn : s.csrAt csr = some n)
    (ha : s.csrAllowed n csr false = true) :
    ∃ t, exec i s = .next t ∧ t.xAt rd = rdValue s rd (s.csrRead n) ∧ sameXBut rd s t ∧ sameBytes s t := by
  obtain ⟨u, form, reads, wf⟩ := s.csrForm_of_mem_readingForms hi
  have performs := form.performs (wf hrd) hn (reads ▸ ha)
  obtain rfl := form.rd_eq
  exact ⟨_, performs, s.csrPerform_xAt_rd u n form.rd_zero, s.csrPerform_sameXBut_of_reads u n reads,
    s.csrPerform_sameBytes u n⟩

/-- Settles O12: a writing and a reading form are each a use of the CSR whose checks pass, and are performed alike. -/
theorem csrInstructionFrame : Obligations.CsrInstructionFrame := by
  intro s rd a csr n i wf hn allowed
  have use : ∃ u, CsrForm s i rd csr u ∧ s.csrAllowed n csr u.writes = true := by
    rcases allowed with ⟨hi, ok⟩ | ⟨hi, ok⟩
    · obtain ⟨u, form, writes, -⟩ := s.csrForm_of_mem_writingForms hi
      exact ⟨u, form, writes ▸ ok⟩
    · obtain ⟨u, form, reads, -⟩ := s.csrForm_of_mem_readingForms hi
      exact ⟨u, form, reads ▸ ok⟩
  obtain ⟨u, form, ok⟩ := use
  have performs := form.performs wf hn ok
  obtain rfl := form.rd_eq
  exact ⟨_, performs, s.csrPerform_xAt_rd u n form.rd_zero,
    fun r hr present => (s.csrPerform_xAt_of_ne u n hr).trans (s.csrTouched_xAt u n present),
    s.csrPerform_sameBytes u n, s.csrPerform_pc u n, s.csrPerform_priv u n, s.csrPerform_cfg u n, s.csrPerform_plat u n,
    s.csrPerform_wait u n, s.csrPerform_inputs u n⟩

/-- Settles O18: the address alone refuses the write; it refuses no read. -/
theorem readOnlyCsr : Obligations.ReadOnlyCsr := by
  intro s rd a csr i readOnly
  refine ⟨fun hi => ?_, fun n hi hrd hn he hp hs => ?_⟩
  · obtain ⟨u, form, writes, -⟩ := s.csrForm_of_mem_writingForms hi
    exact form.raisesIllegal_of_forall fun n _ => writes ▸ s.csrAllowed_of_readOnly (beq_iff_eq.2 readOnly) n
  · exact s.readingForm_reads hi hrd hn (s.csrAllowed_read he (decide_eq_true hp) hs)

/-! ### The counter shadows (R374) -/

/-- The register is a counter shadow. -/
def CsrName.isShadow : CsrName → Bool
  | .shadow _ _ => true
  | _ => false

/-- The counter shadows have no row of their own in the map: they stand in two ranges of addresses. -/
theorem not_isShadow_of_mem_table : ∀ e ∈ csrTableM ++ csrTableOther, e.2.isShadow = false := by decide

/-- Both ranges, `0xC00` to `0xC1F` and `0xC80` to `0xC9F`, are of the unprivileged addresses (R364). -/
theorem csrNamed_shadow_priv {a : BitVec 12} {b : Nat} {high : Bool} (h : csrNamed a = some (.shadow b high)) :
    (a.extractLsb' 8 2).toNat = 0 := by
  have unprivileged (range : 0xC00 ≤ a.toNat ∧ a.toNat ≤ 0xC9F) : (a.extractLsb' 8 2).toNat = 0 := by
    rw [BitVec.extractLsb'_toNat, Nat.shiftRight_eq_div_pow]
    omega
  simp only [csrNamed] at h
  split_ifs at h
  iterate 6 · cases h
  · exact unprivileged (by omega)
  · exact unprivileged (by omega)
  · obtain ⟨e, found, named⟩ := Option.map_eq_some_iff.1 h
    have shadow : e.2.isShadow = true := congrArg CsrName.isShadow named
    rw [not_isShadow_of_mem_table e (List.mem_of_find?_eq_some found)] at shadow
    cases shadow

theorem State.privAllows_shadow (s : State) {a : BitVec 12} {b : Nat} {high : Bool}
    (h : csrNamed a = some (.shadow b high)) : s.privAllows a = true :=
  decide_eq_true ((csrNamed_shadow_priv h).trans_le (Nat.zero_le _))

theorem State.csrSpecial_shadow (s : State) (w : Bool) (b : Nat) (high : Bool) :
    s.csrSpecial w (.shadow b high) = s.counterAllowed b := rfl

theorem State.csrRead_shadow (s : State) (b : Nat) (high : Bool) :
    s.csrRead (.shadow b high) = halfOf high (s.counterValue b) := rfl

/-- `time` without its implementation exists in no mode. -/
theorem State.not_csrExists_time (s : State) (high : Bool) (h : s.cfg.timeCsrImpl = false) :
    s.csrExists (.shadow 1 high) = false := by simp [State.csrExists, h]

/-- The access check of counter b, mode by mode. -/
theorem State.counterAllowed_iff (s : State) (b : Nat) :
    s.counterAllowed b = true ↔ s.priv = .m ∨ s.priv = .s ∧ s.mcounterenRead.getLsbD b = true ∨
      s.priv = .u ∧ s.mcounterenRead.getLsbD b = true ∧ (s.hasS = true → s.sup.scounteren.getLsbD b = true) := by
  unfold State.counterAllowed
  cases s.priv with
  | m => simp
  | s => simp
  | u => cases s.hasS <;> simp

/-- Settles O19: an existing shadow is read just if the access check of its counter passes. -/
theorem counterAccess : Obligations.CounterAccess := by
  intro s rd csr b high i hn hrd hi
  have at_ := s.csrAt_of_csrNamed hn
  obtain ⟨u, form, -, -⟩ := s.csrForm_of_mem_readingForms hi
  refine ⟨fun time absent => ?_, fun exist => ⟨fun ok => ?_, fun no => ?_⟩⟩
  · subst time
    exact form.raisesIllegal at_ (s.csrAllowed_of_not_exists (s.not_csrExists_time high absent) csr _)
  · have special := (s.csrSpecial_shadow false b high).trans ((s.counterAllowed_iff b).2 ok)
    have reads := s.readingForm_reads hi hrd at_ (s.csrAllowed_read exist (s.privAllows_shadow hn) special)
    rwa [s.csrRead_shadow b high] at reads
  · have special := (s.csrSpecial_shadow u.writes b high).trans
      (Bool.eq_false_iff.2 fun ok => no ((s.counterAllowed_iff b).1 ok))
    exact form.raisesIllegal at_ (s.csrAllowed_of_not_special special csr)

/-! ### `mscratch` (R376 to R381, 11_state_trap_csrs.md R140) -/

/-- Joining two values and cutting the result to XLEN bits commute. -/
theorem narrow_or (x : Xlen) (v w : Word) : narrow x (v ||| w) = narrow x v ||| narrow x w := by
  cases x
  · simp [narrow, BitVec.setWidth_or]
  · rfl

/-- A five-bit immediate fits every XLEN. -/
theorem narrow_uimmValue (x : Xlen) (v : BitVec 5) : narrow x (uimmValue v) = uimmValue v := by
  cases x
  · simp [narrow, uimmValue, BitVec.setWidth_setWidth_of_le]
  · rfl

/-- A new value made of XLEN-bit values is one of XLEN bits. -/
theorem CsrOp.narrow_apply (o : CsrOp) {x : Xlen} {old v : Word} (hold : narrow x old = old) (hv : narrow x v = v) :
    narrow x (o.apply old v) = o.apply old v := by
  cases o with
  | write => exact hv
  | set => rw [CsrOp.apply, narrow_or, hold, hv]
  | clear => rw [CsrOp.apply, narrow_and, hold]

/-- What a CSR instruction leaves in `mscratch`. -/
def State.scratchAfter (s : State) (u : CsrUse) : Word :=
  if u.writes then u.op.apply (narrow s.xlen s.csr.mscratch) u.operand else s.csr.mscratch

/-- A CSR instruction on `mscratch` changes counters, `mscratch` and, by counting, `mip.LCOFIP`, before `rd` and `pc`. -/
theorem State.csrTouched_mscratch (s : State) (u : CsrUse) (hv : narrow s.xlen u.operand = u.operand) :
    ∃ k l, s.csrTouched u .mscratch =
      (s.setCnt k).setCsr { s.csr with mscratch := s.scratchAfter u, lcofip := l } := by
  have read (q : State) : q.csrAfterRead u .mscratch = q := by unfold State.csrAfterRead; split <;> rfl
  obtain ⟨k, l, counts⟩ := s.countRetired_cases (u.skips .mscratch)
  refine ⟨k, l, ?_⟩
  rw [State.csrTouched, read, counts, State.csrAfterWrite, State.scratchAfter]
  split
  · have cut := u.op.narrow_apply (narrow_narrow s.xlen s.csr.mscratch) hv
    exact congrArg (fun v => (s.setCnt k).setCsr { s.csr with mscratch := v, lcofip := l }) cut
  · rfl

/-- The effect of a CSR instruction on `mscratch`. -/
theorem State.csrPerform_scratchEffect (s : State) (u : CsrUse) (hv : narrow s.xlen u.operand = u.operand)
    (hr : u.reads = false → u.rd = 0) : scratchEffect s (s.csrPerform u .mscratch) u.rd (s.scratchAfter u) := by
  obtain ⟨k, l, touched⟩ := s.csrTouched_mscratch u hv
  have csr : (s.csrPerform u .mscratch).csr = { s.csr with mscratch := s.scratchAfter u, lcofip := l } := by
    rw [State.csrPerform_csr, touched]; rfl
  have kept : (s.csrPerform u .mscratch).reservation = s.reservation ∧ (s.csrPerform u .mscratch).elp = s.elp := by
    rw [State.csrPerform_eq, touched]
    split <;> simp
  exact ⟨by rw [csr], s.csrPerform_xAt_rd u .mscratch hr, s.csrPerform_sameXBut u .mscratch (by simp),
    s.csrPerform_sameBytes u .mscratch, by rw [sameCsrsButScratch, csr], s.csrPerform_sameRest u .mscratch touched,
    s.csrPerform_retired4 u .mscratch (by simp [counterWritten]), s.csrPerform_priv u .mscratch,
    s.csrPerform_wait u .mscratch, kept⟩

/-- In M-mode a CSR instruction on `mscratch` whose registers exist is performed. -/
theorem CsrForm.scratch {s : State} {i : Instr} {rd : BitVec 5} {u : CsrUse} (form : CsrForm s i rd 0x340 u)
    (hm : s.priv = .m) (wf : i.wellFormed s.features = true) (hv : narrow s.xlen u.operand = u.operand) :
    ∃ t, exec i s = .next t ∧ scratchEffect s t rd (s.scratchAfter u) := by
  have allowed : s.csrAllowed .mscratch 0x340 u.writes = true := s.csrAllowed_m hm rfl (by decide) rfl
  have performs := form.performs wf (s.csrAt_of_csrNamed (by decide)) allowed
  obtain rfl := form.rd_eq
  exact ⟨_, performs, s.csrPerform_scratchEffect u hv form.rd_zero⟩

section

variable {s : State} (hm : s.priv = .m) {rd : BitVec 5} (hrd : regExists s.features rd = true)
include hm hrd

theorem State.registerForm_scratch (o : CsrOp) (a : BitVec 5) (ha : regExists s.features a = true) :
    ∃ t, exec (o.registerForm rd a 0x340) s = .next t ∧
      scratchEffect s t rd (s.scratchAfter (s.registerUse o rd a 0x340)) :=
  (s.csrForm_registerForm o rd a 0x340).scratch hm (by simp [o.registerForm_wellFormed, hrd, ha]) (s.narrow_readX a)

theorem State.immediateForm_scratch (o : CsrOp) (a : BitVec 5) :
    ∃ t, exec (o.immediateForm rd a 0x340) s = .next t ∧
      scratchEffect s t rd (s.scratchAfter (immediateUse o rd a 0x340)) :=
  (s.csrForm_immediateForm o rd a 0x340).scratch hm (by rw [o.immediateForm_wellFormed, hrd]) (narrow_uimmValue _ a)

end

/-- An instruction whose source field decides whether it writes leaves `mscratch` alone just if the field is 0 (R365). -/
theorem State.scratchAfter_of_source (s : State) (hm : s.priv = .m) {u : CsrUse} {a : BitVec 5} (hw : u.writes = (a != 0)) :
    s.scratchAfter u =
      if a = 0 then s.csr.mscratch else u.op.apply (narrow s.cfg.mxlen s.csr.mscratch) u.operand := by
  rw [State.scratchAfter, s.xlen_m hm, hw]
  by_cases zero : a = 0 <;> simp [zero]

/-- The two forms, on `mscratch`, of an operation that writes just if its source field is not 0. -/
theorem State.modifyForms_scratch (s : State) {rd : BitVec 5} (hm : s.priv = .m) (hrd : regExists s.features rd = true)
    {o : CsrOp} (a : BitVec 5) (hw : o.writesCsr a = (a != 0)) :
    (regExists s.features a = true → ∃ t, exec (o.registerForm rd a 0x340) s = .next t ∧ scratchEffect s t rd
      (if a = 0 then s.csr.mscratch else o.apply (narrow s.cfg.mxlen s.csr.mscratch) (s.readX a))) ∧
    (∃ t, exec (o.immediateForm rd a 0x340) s = .next t ∧ scratchEffect s t rd
      (if a = 0 then s.csr.mscratch else o.apply (narrow s.cfg.mxlen s.csr.mscratch) (uimmValue a))) := by
  have register : s.scratchAfter (s.registerUse o rd a 0x340) = _ := s.scratchAfter_of_source hm hw
  have immediate : s.scratchAfter (immediateUse o rd a 0x340) = _ := s.scratchAfter_of_source hm hw
  exact ⟨fun ha => register ▸ State.registerForm_scratch hm hrd o a ha, immediate ▸ State.immediateForm_scratch hm hrd o a⟩

/-- Settles O13: CSRRW and CSRRWI always write, and leave the operand. -/
theorem scratchWrite : Obligations.ScratchWrite := fun _ _ a hm hrd =>
  ⟨State.registerForm_scratch hm hrd .write a, State.immediateForm_scratch hm hrd .write a⟩

/-- Settles O14: the value that is written is the old one with the operand's bits set. -/
theorem scratchSetBits : Obligations.ScratchSetBits := fun s _ a hm hrd =>
  s.modifyForms_scratch hm hrd (o := .set) a rfl

/-- Settles O15: the value that is written is the old one with the operand's bits cleared. -/
theorem scratchClearBits : Obligations.ScratchClearBits := fun s _ a hm hrd =>
  s.modifyForms_scratch hm hrd (o := .clear) a rfl

/-! ### The reserved funct3 (R382, 30_encoding.md R345) -/

/-- A SYSTEM word with funct3 = 100 is no row of the opcode table. -/
theorem decodeWord_of_funct3_four {w : BitVec 32} (op : opcodeOf w = systemOpcode) (f3 : funct3Of w = 4) :
    decodeWord w = .error .reserved := by
  rw [decodeWord_of_opcode op]
  simp [decodeSystem, f3]

/-- Of the base opcodes SYSTEM is the one of these words. -/
theorem State.baseOpcode_system (s : State) {w : BitVec 32} (op : opcodeOf w = systemOpcode) :
    s.baseOpcode w = s.otherSystem w := by
  have low : w.extractLsb' 0 2 = (opcodeOf w).extractLsb' 0 2 := by
    ext i hi
    simp [opcodeOf]
  have long : w.extractLsb' 0 2 = 0b11#2 := by rw [low, op]; rfl
  simp [State.baseOpcode, long, op, systemOpcode]

/-- A SYSTEM word uses `rd` alone, so that it is refused for its register or is one of `otherSystem`. -/
theorem State.baseExec_system (s : State) {w : BitVec 32} (op : opcodeOf w = systemOpcode) :
    s.baseExec w = if s.badReg (rdOf w) then .next (s.illegal w) else s.otherSystem w := by
  have used : usedRegs w = [rdOf w] := by simp [usedRegs, op, systemOpcode]
  rw [State.baseExec, used, s.baseOpcode_system op]
  simp

/-- Settles O5: no row matches such a word, and it is one of Zicfiss or illegal. -/
theorem funct3FourIsReserved : Obligations.Funct3FourIsReserved := by
  intro w s op f3
  have runs : s.runWord w = s.baseExec w := by rw [State.runWord, decodeWord_of_funct3_four op f3]
  rw [runs, s.baseExec_system op, State.otherSystem]
  refine ⟨fun plain => ?_, fun zicfiss word below sse present => ?_⟩
  · have other : ¬(s.cfg.ext.zicfiss = true ∧ wordOfZicfiss w = true) := by
      rcases plain with off | off <;> simp [off]
    rw [if_neg other, ite_self]
  · have good : s.badReg (rdOf w) = false := by
      rcases present with e | e <;> simp [State.badReg, e]
    have off : s.zicfissOff = true := by simp [State.zicfissOff, below, sse]
    simp [good, zicfiss, word, off]

end Sys2Proof.Machine

/-! SUPPORT. Environment calls and breakpoints (41_ecall_ebreak.md): where a raised exception is delivered, and the trap value
that it leaves. -/

namespace Sys2Proof.Machine

/-! ### The delivery of an exception (60_exceptions.md R480, R481) -/

/-- Not delegated and not unexpected: M-mode is entered. -/
theorem State.raise_of_not_delegated {s : State} {code : Nat} (here : s.delegated code = false) (expected : s.unexpected = false)
    (tval : Word) : s.raise code tval = s.countTrapped.enterM false code tval := by
  have alive : s.fatal = false := by simp [State.fatal, expected]
  simp [State.raise, alive, here, State.deliver, State.trapM, expected]

/-- Delegated with `SDT` clear: S-mode is entered, and the trap is never fatal. -/
theorem State.raise_of_delegated {s : State} {code : Nat} (there : s.delegated code = true) (sdt : s.status.sdt = false)
    (tval : Word) : s.raise code tval = s.countTrapped.enterS false code tval := by
  simp [State.raise, there, sdt, State.deliver, State.trapS]

theorem State.raise_enteredM {s : State} {code : Nat} (here : s.delegated code = false) (expected : s.unexpected = false)
    (tval : Word) : enteredM s (s.raise code tval) false code tval := by
  rw [State.raise_of_not_delegated here expected]
  exact enteredM_of_countTrapped _ _ _ _ _ (s.countTrapped.enterM_entered _ _ _)

theorem State.raise_enteredS {s : State} {code : Nat} (there : s.delegated code = true) (sdt : s.status.sdt = false)
    (tval : Word) : enteredS s (s.raise code tval) false code tval := by
  rw [State.raise_of_delegated there sdt]
  exact enteredS_of_countTrapped _ _ _ _ _ (s.countTrapped.enterS_entered _ _ _)

/-! ### The trap value (11_state_trap_csrs.md R150, R157) -/

@[simp] theorem narrow_zero (x : Xlen) : narrow x 0#64 = 0#64 := by cases x <;> rfl

/-- Under every policy the trap value is what the exception gives, or zero. -/
theorem State.trapValue_eq_zero_or_eq (s : State) (isInt : Bool) (code : Nat) (tval : Word) :
    s.trapValue isInt code tval = 0 ∨ s.trapValue isInt code tval = tval := by
  unfold State.trapValue
  split_ifs
  · exact .inl rfl
  · exact .inr rfl
  · exact .inr rfl
  · exact .inl rfl

theorem enteredM.mtval_eq_zero_or_eq {s t : State} {isInt : Bool} {code : Nat} {tval : Word}
    (h : enteredM s t isInt code tval) : t.csr.mtval = 0 ∨ t.csr.mtval = narrow s.cfg.mxlen tval := by
  obtain ⟨-, -, mtval, -⟩ := h
  rcases s.trapValue_eq_zero_or_eq isInt code tval with e | e <;> simp [mtval, e]

/-! ### The instructions (R400, R402, R405) -/

theorem exec_ecall (s : State) : exec .ecall s = .next (s.raise (ecallCode s.priv) 0) := rfl

theorem exec_ebreak (s : State) : exec .ebreak s = .next (s.raise 3 s.pcAddr) := rfl

/-- C.EBREAK is well-formed just where C is enabled. -/
theorem exec_cEbreak (s : State) :
    exec .cEbreak s = if s.extC then exec .ebreak s else .next (s.illegal (encode .cEbreak)) :=
  apply_ite Host.Outcome.next (s.extC = true) s.breakpoint (s.illegal (encode .cEbreak))

/-- Settles O29: the code is that of the mode, and a trap value of zero stays zero. -/
theorem ecall : Obligations.Ecall := by
  intro s code of_mode
  have raises : exec .ecall s = .next (s.raise code 0) := by
    rcases of_mode with ⟨mode, rfl⟩ | ⟨mode, rfl⟩ | ⟨mode, rfl⟩ <;> rw [exec_ecall, mode, ecallCode]
  refine ⟨raises, fun here expected => ?_, fun there sdt => ⟨_, raises, State.raise_enteredS there sdt 0⟩⟩
  have entered := State.raise_enteredM here expected 0
  exact ⟨_, raises, entered, by simpa using entered.mtval_eq_zero_or_eq⟩

/-- Settles O30: a breakpoint is an exception raised with the address; without C the compressed form is reserved. -/
theorem ebreak : Obligations.Ebreak := by
  intro s here expected
  have entered := State.raise_enteredM here expected s.pcAddr
  refine ⟨⟨_, exec_ebreak s, entered, entered.mtval_eq_zero_or_eq⟩, fun on => ?_, fun off => ?_⟩
  · rw [exec_cEbreak, if_pos on]
  · rw [raisesIllegal, exec_cEbreak, if_neg (by simp [off]), State.illegal]

end Sys2Proof.Machine

/-! SUPPORT. The trap returns (42_trap_return.md): what a pop and its jump leave, said once for MRET, SRET and MNRET, and the
statements about them. -/

namespace Sys2Proof.Machine

/-! ### The jump of a return (R411, R415, R418) -/

@[simp] theorem State.finishReturn_pc (s : State) (a : Word) : (s.finishReturn a).pc = widen s.cfg.mxlen s.xlen a := rfl

@[simp] theorem State.finishReturn_xlenOf (s : State) (a : Word) (y : Priv) : (s.finishReturn a).xlenOf y = s.xlenOf y := rfl

@[simp] theorem State.finishReturn_reservation (s : State) (a : Word) :
    (s.finishReturn a).reservation = if s.cfg.xretClearsReservation then none else s.reservation := rfl

@[simp] theorem State.finishReturn_elp (s : State) (a : Word) : (s.finishReturn a).elp = s.elpIn s.priv := rfl

@[simp] theorem State.setPriv_xlen (s : State) (y : Priv) : (s.setPriv y).xlen = s.xlenOf y := rfl

@[simp] theorem State.setPriv_xlenOf (s : State) (y z : Priv) : (s.setPriv y).xlenOf z = s.xlenOf z := rfl

/-! ### The landing-pad bit (12_state_config_pmp_mmio.md R184, R202) -/

theorem State.elpIn_of_absent {s : State} (absent : s.cfg.ext.zicfilp = false) (y : Priv) : s.elpIn y = s.elp :=
  if_neg (by simp [absent])

theorem State.elpIn_of_disabled {s : State} {y : Priv} (present : s.cfg.ext.zicfilp = true) (off : s.landingPads y = false) :
    s.elpIn y = false := by
  simp [State.elpIn, present, off]

/-! ### A pop (R411, R415) -/

/-- A new `mstatus` keeps the landing-pad bits of a hart without Zicfilp. -/
def keepsPadBits (s : State) (m : Mstatus) : Prop :=
  s.cfg.ext.zicfilp = false → m.mpelp = s.csr.mstatus.mpelp ∧ m.spelp = s.csr.mstatus.spelp

/-- The mode of a return has landing pads enabled as before the pop. -/
theorem State.landingPads_pop (s : State) (m : Mstatus) (r : Rnmi) (y z : Priv) :
    ((((s.countRetired none).setMstatus m).setRnmi r).setPriv y).landingPads z = s.landingPads z := by
  obtain ⟨n, l, e⟩ := s.countRetired_cases none
  rw [e]; rfl

/-- A return counts, writes `mstatus` and the Smrnmi registers, enters its mode and jumps, and does nothing else. -/
theorem State.finishReturn_returned (s : State) (m : Mstatus) (r : Rnmi) (y : Priv) (target : Word)
    (pads : keepsPadBits s m) :
    returned s (((((s.countRetired none).setMstatus m).setRnmi r).setPriv y).finishReturn target) y target := by
  obtain ⟨n, l, counts⟩ := s.countRetired_cases none
  refine ⟨rfl, by simp, by simp, ?_, by simp, ⟨fun absent => ?_, fun present off => ?_⟩, State.xAt_congr (by simp),
    State.byteAt_congr (by simp) (by simp) (by simp), by simp [sameBase], by simp, ?_, ?_⟩
  · simp [counted, State.nextMinstret]
  · simpa [State.elpIn_of_absent, absent] using pads absent
  · exact State.elpIn_of_disabled (by simpa) (by rw [State.landingPads_pop]; exact off)
  · simp [sameCsrs, counts]
  · simp [sameSaved, counts]

/-- MRET and SRET leave the Smrnmi registers as they are. -/
theorem State.finishReturn_returned_of_same_rnmi (s : State) (m : Mstatus) (y : Priv) (target : Word)
    (pads : keepsPadBits s m) :
    returned s ((((s.countRetired none).setMstatus m).setPriv y).finishReturn target) y target :=
  s.finishReturn_returned m (s.countRetired none).rnmi y target pads

/-! ### The three pops -/

theorem State.returnM_returned (s : State) : returned s s.returnM s.mppSeen (s.epcMasked s.csr.mepc) := by
  refine s.finishReturn_returned_of_same_rnmi _ _ _ fun absent => ⟨?_, rfl⟩
  simp [State.nextMpelp, absent]

theorem State.returnS_returned (s : State) :
    returned s s.returnS (if s.status.spp then .s else .u) (s.epcMasked s.sup.sepc) := by
  refine s.finishReturn_returned_of_same_rnmi _ _ _ fun absent => ⟨rfl, ?_⟩
  simp [State.nextSpelp, absent]

theorem State.returnRnmi_returned (s : State) :
    returned s s.returnRnmi (if s.modeExists s.rnmi.mnpp then s.rnmi.mnpp else .m) (s.epcMasked s.rnmi.mnepc) :=
  s.finishReturn_returned _ _ _ _ fun _ => ⟨rfl, rfl⟩

/-- With S-mode the supervisor fields of `mstatus` read as they are held. -/
theorem State.status_supervisor (s : State) (h : s.hasS = true) :
    s.status.spp = s.csr.mstatus.spp ∧ s.status.spie = s.csr.mstatus.spie ∧ s.status.tsr = s.csr.mstatus.tsr := by
  simp [State.status, h]

/-! ### Where a return is legal (R412, R413, R417) -/

theorem exec_mret (s : State) :
    exec .mret s = .next (if s.priv = .m then s.returnM else s.illegal (encode .mret)) := rfl

theorem exec_sret (s : State) : exec .sret s =
    .next (if s.hasS then if s.sretIllegal then s.illegal (encode .sret) else s.returnS else s.illegal (encode .sret)) := rfl

theorem exec_mnret (s : State) : exec .mnret s = .next (if s.cfg.ext.smrnmi then
    if s.priv = .m then s.returnRnmi else s.illegal (encode .mnret) else s.illegal (encode .mnret)) := rfl

/-- In M-mode SRET is legal, in S-mode where `TSR` is clear, and in U-mode never. -/
theorem State.sretIllegal_eq_false_iff (s : State) (h : s.hasS = true) :
    s.sretIllegal = false ↔ s.priv = .m ∨ s.priv = .s ∧ s.csr.mstatus.tsr = false := by
  obtain ⟨-, -, tsr⟩ := s.status_supervisor h
  unfold State.sretIllegal
  cases s.priv <;> simp [tsr]

theorem exec_mret_of_m {s : State} (mode : s.priv = .m) : exec .mret s = .next s.returnM := by
  rw [exec_mret, if_pos mode]

theorem exec_sret_of_legal {s : State} (present : s.hasS = true)
    (legal : s.priv = .m ∨ s.priv = .s ∧ s.csr.mstatus.tsr = false) : exec .sret s = .next s.returnS := by
  simp [exec_sret, present, (s.sretIllegal_eq_false_iff present).2 legal]

theorem exec_mnret_of_m {s : State} (present : s.cfg.ext.smrnmi = true) (mode : s.priv = .m) :
    exec .mnret s = .next s.returnRnmi := by
  rw [exec_mnret, if_pos present, if_pos mode]

/-! ### The statements -/

/-- Settles O35: the pop of the machine-level stack is `returnM`. -/
theorem mret : Obligations.Mret := by
  refine fun s => ⟨fun below => ?_, fun mode => ⟨_, exec_mret_of_m mode, s.returnM_returned, s.returnM_rnmi, ?_⟩⟩
  · rw [raisesIllegal, exec_mret, if_neg below, State.illegal]
  · simp [State.returnM, State.status, State.leastMode]

/-- Settles O36: SRET is legal just where `sretIllegal` is off, and with S-mode its pop reads the fields held. -/
theorem sret : Obligations.Sret := by
  refine fun s => ⟨fun barred => ?_, fun present legal => ?_⟩
  · rw [raisesIllegal, exec_sret, ← State.illegal]
    split_ifs with present illegal
    · rfl
    · rcases (s.sretIllegal_eq_false_iff present).1 (by simpa using illegal) with mode | ⟨mode, tsr⟩
      · simp [present, mode] at barred
      · simp [present, mode, tsr] at barred
    · rfl
  · obtain ⟨spp, spie, -⟩ := s.status_supervisor present
    refine ⟨_, exec_sret_of_legal present legal, spp ▸ s.returnS_returned, s.returnS_rnmi, ?_⟩
    cases held : s.csr.mstatus.spp <;> simp [State.returnS, spp, spie, held]

/-- Settles O37: with `MNPP` an implemented mode the pop goes there. -/
theorem mnret : Obligations.Mnret := by
  refine fun s => ⟨fun barred => ?_, fun present mode implemented => ?_⟩
  · rw [raisesIllegal, exec_mnret, ← State.illegal]
    split_ifs with present mode
    · simp [present, mode] at barred
    · rfl
    · rfl
  · have pops := s.returnRnmi_returned
    rw [if_pos implemented] at pops
    refine ⟨_, exec_mnret_of_m present mode, pops, ?_, ?_⟩
    · simp [State.returnRnmi]
    · simp [State.returnRnmi, implemented]

/-! ### Alignment (R418, 11_state_trap_csrs.md R144) -/

/-- A masked exception pc is IALIGN-aligned. -/
theorem State.epcMasked_aligned (s : State) (v : Word) : s.aligned (s.epcMasked v) = true := by
  unfold State.aligned State.epcMasked
  split
  · rename_i compressed; simp [compressed]
  · simp

theorem State.aligned_eq_true_iff (s : State) (a : Word) :
    s.aligned a = true ↔ a.getLsbD 0 = false ∧ (s.extC = false → a.getLsbD 1 = false) := by
  cases h : s.extC <;> simp [State.aligned, h]

/-- Alignment looks at the low bits alone, so the extension to MXLEN keeps it. -/
theorem State.aligned_widen (s : State) (mx x : Xlen) (a : Word) : s.aligned (widen mx x a) = s.aligned a := by
  simp only [State.aligned, getLsbD_widen mx x a (show 0 < 32 by omega), getLsbD_widen mx x a (show 1 < 32 by omega)]

theorem State.aligned_congr {s t : State} (hc : t.cfg = s.cfg) (hm : t.csr.misa = s.csr.misa) (a : Word) :
    t.aligned a = s.aligned a := by
  simp only [State.aligned, State.extC, State.letter, hc, hm]

/-- A return to a masked address leaves an aligned `pc` and writes no cause. -/
theorem returned.aligned_and_keeps_causes {s t : State} {y : Priv} {v : Word} (h : returned s t y (s.epcMasked v)) :
    t.aligned t.pc = true ∧ t.csr.mcause = s.csr.mcause ∧ t.sup.scause = s.sup.scause := by
  obtain ⟨-, pc, -, -, -, -, -, -, ⟨cfg, -⟩, sup, ⟨misa, -⟩, -, mcause, -⟩ := h
  refine ⟨?_, mcause, by rw [sup]⟩
  rw [pc, State.aligned_widen, State.aligned_congr cfg misa, s.epcMasked_aligned]

/-- Settles O38: the mask on the return address is the one on a read of `mepc`. -/
theorem returnTargetIsAligned : Obligations.ReturnTargetIsAligned := by
  refine ⟨fun s => (s.aligned_eq_true_iff _).1 (s.epcMasked_aligned s.csr.mepc), fun s i legal => ?_⟩
  rcases legal with ⟨rfl, mode⟩ | ⟨rfl, present, legal⟩ | ⟨rfl, present, mode⟩
  · exact ⟨_, exec_mret_of_m mode, s.returnM_returned.aligned_and_keeps_causes⟩
  · exact ⟨_, exec_sret_of_legal present legal, s.returnS_returned.aligned_and_keeps_causes⟩
  · exact ⟨_, exec_mnret_of_m present mode, s.returnRnmi_returned.aligned_and_keeps_causes⟩

end Sys2Proof.Machine

/-! SUPPORT. Wait for interrupt (43_wfi.md): where WFI waits, where it is illegal, and how a stalled hart resumes. -/

namespace Sys2Proof.Machine

/-! ### Where a WFI may wait (R420, R423) -/

theorem exec_wfi (s : State) :
    exec .wfi s = .next (if s.wfiAbsent then s.illegal (encode .wfi) else if s.wfiTimed then s.wfiLimited else s.wfiWait) := rfl

theorem State.wfiAbsent_eq_true_iff (s : State) :
    s.wfiAbsent = true ↔ s.priv = .u ∧ s.hasS = false ∧ s.cfg.wfiInU = false := by
  simp [State.wfiAbsent, and_assoc]

theorem State.wfiTimed_eq_true_iff (s : State) :
    s.wfiTimed = true ↔ s.priv ≠ .m ∧ (s.status.tw = true ∨ s.priv = .u ∧ s.hasS = true) := by
  unfold State.wfiTimed
  cases s.priv <;> simp

/-- A WFI that may wait without a limit is there and is not limited. -/
theorem State.wfi_unlimited {s : State}
    (free : s.priv = .m ∨ s.status.tw = false ∧ (s.priv = .s ∨ s.hasS = false ∧ s.cfg.wfiInU = true)) :
    s.wfiAbsent = false ∧ s.wfiTimed = false := by
  rw [← Bool.not_eq_true, ← Bool.not_eq_true, s.wfiAbsent_eq_true_iff, s.wfiTimed_eq_true_iff]
  rcases free with mode | ⟨tw, mode | ⟨noS, inU⟩⟩
  · simp [mode]
  · simp [mode, tw]
  · simp [tw, noS, inU]

theorem State.not_wfiStalls {s : State} (h : s.wake = true ∨ s.cfg.wfiKind = .nop) : s.wfiStalls = false := by
  rcases h with wake | nop
  · simp [State.wfiStalls, wake]
  · simp [State.wfiStalls, nop]

/-- Only the waiting state tells a WFI that waits from an instruction with no effect. -/
theorem State.retire_setWait_onlyRetired (s : State) (v : Wait) : onlyRetired s ((s.retire 4).setWait v) :=
  s.retire_onlyRetired

/-- Settles O39: the modes and `TW` tell the absent, the limited and the unlimited WFI apart. -/
theorem waitForInterrupt : Obligations.WaitForInterrupt := by
  refine fun s => ⟨fun free => ?_, fun mode noS inU => ?_, fun mode limited zero => ?_,
    fun mode limited limit available wake => ?_⟩
  · obtain ⟨available, unlimited⟩ := State.wfi_unlimited free
    have waits : exec .wfi s = .next s.wfiWait := by simp [exec_wfi, available, unlimited]
    refine ⟨_, waits, s.retire_setWait_onlyRetired _, fun h => ?_⟩
    rw [State.wfiWait, State.setWait_wait, State.not_wfiStalls h, Wait.running]
  · rw [raisesIllegal, exec_wfi, if_pos (s.wfiAbsent_eq_true_iff.2 ⟨mode, noS, inU⟩), State.illegal]
  · rw [raisesIllegal, exec_wfi, if_pos (s.wfiTimed_eq_true_iff.2 ⟨mode, limited⟩), State.wfiLimited, if_pos zero, ite_self,
      State.illegal]
  · have goesOn : s.wfiLimited = (s.retire 4).setWait .running := by
      simp [State.wfiLimited, limit, State.not_wfiStalls (.inl wake)]
    refine ⟨_, ?_, s.retire_setWait_onlyRetired .running, rfl⟩
    rw [exec_wfi, if_neg (by simp [available]), if_pos (s.wfiTimed_eq_true_iff.2 ⟨mode, limited⟩), goesOn]

/-! ### Taking an interrupt (60_exceptions.md R466, R480, R481) -/

@[simp] theorem State.countIdle_status (s : State) : s.countIdle.status = s.status := by
  obtain ⟨n, l, h⟩ := s.countIdle_cases
  rw [h]; rfl

@[simp] theorem State.countIdle_unexpected (s : State) : s.countIdle.unexpected = s.unexpected := by
  obtain ⟨n, l, h⟩ := s.countIdle_cases
  rw [h]; rfl

theorem State.takeInterrupt_enteredM {s : State} (expected : s.unexpected = false) (code : Nat) :
    enteredM s (s.takeInterrupt false code) true code 0 := by
  have taken : s.takeInterrupt false code = s.countIdle.enterM true code 0 := by
    simp [State.takeInterrupt, State.fatal, State.deliver, State.trapM, expected]
  rw [taken]
  exact enteredM_of_countIdle _ _ _ _ _ (s.countIdle.enterM_entered _ _ _)

theorem State.takeInterrupt_enteredS {s : State} (sdt : s.status.sdt = false) (code : Nat) :
    enteredS s (s.takeInterrupt true code) true code 0 := by
  have taken : s.takeInterrupt true code = s.countIdle.enterS true code 0 := by
    simp [State.takeInterrupt, State.deliver, State.trapS, sdt]
  rw [taken]
  exact enteredS_of_countIdle _ _ _ _ _ (s.countIdle.enterS_entered _ _ _)

theorem State.interruptOrRun_of_pending {s : State} {toS : Bool} {i : Nat} (h : s.pendingInterrupt = some (toS, i))
    (p : PlatIn) : s.interruptOrRun p = .next (s.takeInterrupt toS i) := by
  rw [State.interruptOrRun, h]

/-! ### What does not read the waiting state

The fault of a fetch carries the whole state, so only a fetch that succeeds is the same in a stalled and a running hart. -/

theorem State.fetchOp_eq_ok_iff (s : State) (v : Word) (n : Nat) (w : BitVec 32) :
    s.fetchOp v n = .ok w ↔ s.opCheck v.toNat n .fetch .plain s.priv = .pass ∧
      BitVec.ofNat 32 (bytesToNat (s.physReadAll (byteRange v.toNat n))) = w := by
  unfold State.fetchOp
  cases s.opCheck v.toNat n .fetch .plain s.priv <;> simp

/-- A fetch succeeds just where each of its operations does. -/
theorem State.fetch_eq_ok_iff (s : State) (w : BitVec 32) :
    s.fetch = .ok w ↔ if s.extC then
      ∃ lo, s.fetchOp s.pcAddr 2 = .ok lo ∧ if lo.extractLsb' 0 2 = 0b11#2 then
        ∃ hi, s.fetchOp (narrow s.xlen (s.pcAddr + 2)) 2 = .ok hi ∧ lo ||| (hi <<< 16) = w
      else lo = w
    else s.fetchOp s.pcAddr 4 = .ok w := by
  unfold State.fetch
  cases s.extC with
  | false => simp
  | true =>
    cases s.fetchOp s.pcAddr 2 with
    | ok lo =>
      by_cases long : lo.extractLsb' 0 2 = 0b11#2
      · cases s.fetchOp (narrow s.xlen (s.pcAddr + 2)) 2 <;> simp [long]
      · simp [long]
    | exc | stop => simp

theorem State.setWait_fetchOp_eq_ok_iff (s : State) (v : Wait) (a : Word) (n : Nat) (w : BitVec 32) :
    (s.setWait v).fetchOp a n = .ok w ↔ s.fetchOp a n = .ok w := by
  rw [State.fetchOp_eq_ok_iff, State.fetchOp_eq_ok_iff]; rfl

theorem State.setWait_fetch_eq_ok_iff (s : State) (v : Wait) (w : BitVec 32) :
    (s.setWait v).fetch = .ok w ↔ s.fetch = .ok w := by
  simp only [State.fetch_eq_ok_iff, State.setWait_fetchOp_eq_ok_iff]; rfl

theorem State.setWait_pendingInterrupt (s : State) (v : Wait) : (s.setWait v).pendingInterrupt = s.pendingInterrupt := rfl

theorem State.setWait_unexpected (s : State) (v : Wait) : (s.setWait v).unexpected = s.unexpected := rfl

theorem State.setWait_status (s : State) (v : Wait) : (s.setWait v).status = s.status := rfl

theorem enteredM_setWait_iff {s t : State} {v : Wait} {isInt : Bool} {code : Nat} {tval : Word} :
    enteredM (s.setWait v) t isInt code tval ↔ enteredM s t isInt code tval := Iff.rfl

theorem enteredS_setWait_iff {s t : State} {v : Wait} {isInt : Bool} {code : Nat} {tval : Word} :
    enteredS (s.setWait v) t isInt code tval ↔ enteredS s t isInt code tval := Iff.rfl

/-- A fetched instruction of the opcode table runs where no interrupt is taken and no hardware error is met. -/
theorem State.interruptOrRun_of_fetched {s : State} {p : PlatIn} {w : BitVec 32} {i : Instr}
    (calm : s.pendingInterrupt = none) (sound : p.hwError = none) (fetched : s.fetch = .ok w) (decoded : decodeWord w = .ok i) :
    s.interruptOrRun p = exec i s := by
  simp only [State.interruptOrRun, calm, State.fetchAndRun, fetched, sound, s.runFetched_decoded w i decoded]

/-! ### The stalled hart (R421, R424, R425; 60_exceptions.md R510) -/

/-- A hart that is neither reset, nor stopped, nor takes an NMI goes on behind the NMI. -/
theorem State.hartStep_eq_awake {s : State} {p : PlatIn} (noReset : p.reset = none) (alive : s.criticalError = false)
    (noNmi : s.nmiTaken p = false) : s.hartStep p = s.awake p := by
  simp [State.hartStep, noReset, alive, noNmi]

/-- Under a wake-up an unlimited wait ends, and the same step does what a running hart does. -/
theorem State.awake_of_wake {s : State} (unlimited : s.wait = { stalled := true, timer := none }) (wake : s.wake = true)
    (p : PlatIn) : s.awake p = (s.setWait .running).interruptOrRun p := by
  simp [State.awake, State.resumes, unlimited, wake]

/-- Settles O40: the step is that of the hart running again, and a trap entry sees a stalled hart as it sees a running one. -/
theorem stalledHartResumes : Obligations.StalledHartResumes := by
  rintro s u rfl noReset alive noNmi unlimited wake
  have resumed : step s = ((s.sampled s.input).setWait .running).interruptOrRun s.input :=
    (State.hartStep_eq_awake noReset alive noNmi).trans (State.awake_of_wake unlimited wake s.input)
  refine ⟨fun i pending expected => ?_, fun i pending sdt => ?_, fun w i calm sound fetched decoded => ?_⟩
  · rw [← State.setWait_pendingInterrupt _ .running] at pending
    rw [← State.setWait_unexpected _ .running] at expected
    exact ⟨_, resumed.trans (State.interruptOrRun_of_pending pending _),
      enteredM_setWait_iff.1 (State.takeInterrupt_enteredM expected i)⟩
  · rw [← State.setWait_pendingInterrupt _ .running] at pending
    rw [← State.setWait_status _ .running] at sdt
    exact ⟨_, resumed.trans (State.interruptOrRun_of_pending pending _),
      enteredS_setWait_iff.1 (State.takeInterrupt_enteredS sdt i)⟩
  · rw [← State.setWait_pendingInterrupt _ .running] at calm
    rw [← State.setWait_fetch_eq_ok_iff _ .running] at fetched
    exact resumed.trans (State.interruptOrRun_of_fetched calm sound fetched decoded)

end Sys2Proof.Machine

/-! SUPPORT. Fences and the custom SYSTEM words (44_custom_and_fences.md): where a fence is legal, and what a custom word may
do. -/

namespace Sys2Proof.Machine

/-! ### SFENCE.VMA and SINVAL.VMA (R434, R435) -/

/-- The two fences of address translation have one meaning, and are reserved under different conditions. -/
theorem exec_fenceVma {i : Instr} {rs1 rs2 : BitVec 5} (h : i = .sfenceVma rs1 rs2 ∨ i = .sinvalVma rs1 rs2) (s : State) :
    exec i s = .next (if i.wellFormed s.features then
      if s.fenceVmaIllegal then s.illegal (encode i) else s.retire 4 else s.illegal (encode i)) := by
  rcases h with rfl | rfl <;> rfl

/-- With S-mode the fences are legal in M-mode, in S-mode where `TVM` is clear, and in U-mode never. -/
theorem State.fenceVmaIllegal_eq_false_iff (s : State) (h : s.hasS = true) :
    s.fenceVmaIllegal = false ↔ s.priv = .m ∨ s.priv = .s ∧ s.csr.mstatus.tvm = false := by
  have tvm : s.status.tvm = s.csr.mstatus.tvm := by simp [State.status, h]
  unfold State.fenceVmaIllegal
  cases s.priv <;> simp [tvm]

theorem fenceVma_raisesIllegal {i : Instr} {rs1 rs2 : BitVec 5} {s : State}
    (h : i = .sfenceVma rs1 rs2 ∨ i = .sinvalVma rs1 rs2) (present : i.wellFormed s.features = true → s.hasS = true)
    (barred : i.wellFormed s.features = false ∨ s.priv = .u ∨ s.priv = .s ∧ s.csr.mstatus.tvm = true) :
    raisesIllegal i s := by
  rw [raisesIllegal, exec_fenceVma h, ← State.illegal]
  split_ifs with wf illegal
  · rfl
  · rcases (s.fenceVmaIllegal_eq_false_iff (present wf)).1 (by simpa using illegal) with mode | ⟨mode, tvm⟩
    · simp [wf, mode] at barred
    · simp [wf, mode, tvm] at barred
  · rfl

theorem fenceVma_onlyRetires {i : Instr} {rs1 rs2 : BitVec 5} {s : State}
    (h : i = .sfenceVma rs1 rs2 ∨ i = .sinvalVma rs1 rs2) (wf : i.wellFormed s.features = true)
    (legal : s.fenceVmaIllegal = false) : ∃ t, exec i s = .next t ∧ onlyRetired s t ∧ t.wait = s.wait :=
  ⟨s.retire 4, by simp [exec_fenceVma h, wf, legal], s.retire_onlyRetired, s.retire_wait 4⟩

theorem State.sfenceVma_wellFormed (s : State) (rs1 rs2 : BitVec 5) : (Instr.sfenceVma rs1 rs2).wellFormed s.features =
    (s.hasS && regExists s.features rs1 && regExists s.features rs2) := rfl

theorem State.sinvalVma_wellFormed (s : State) (rs1 rs2 : BitVec 5) : (Instr.sinvalVma rs1 rs2).wellFormed s.features =
    (s.hasS && s.cfg.ext.svinval && regExists s.features rs1 && regExists s.features rs2) := rfl

/-- Settles O41: both fences have the checks of `fenceVmaIllegal`, and their extensions are those of well-formedness. -/
theorem supervisorFences : Obligations.SupervisorFences := by
  refine fun s rs1 rs2 => ⟨fun barred => ?_, fun barred => ?_, fun present mode reg1 reg2 => ?_⟩
  · refine fenceVma_raisesIllegal (.inl rfl) (by simp +contextual [s.sfenceVma_wellFormed]) (barred.imp_left fun noS => ?_)
    simp [s.sfenceVma_wellFormed, noS]
  · refine fenceVma_raisesIllegal (.inr rfl) (by simp +contextual [s.sinvalVma_wellFormed])
      ((or_assoc.2 barred).imp_left fun absent => ?_)
    rcases absent with off | off <;> simp [s.sinvalVma_wellFormed, off]
  · have legal := (s.fenceVmaIllegal_eq_false_iff present).2 mode
    refine ⟨fenceVma_onlyRetires (.inl rfl) ?_ legal, fun svinval => fenceVma_onlyRetires (.inr rfl) ?_ legal⟩
    · simp [s.sfenceVma_wellFormed, present, reg1, reg2]
    · simp [s.sinvalVma_wellFormed, present, svinval, reg1, reg2]

/-! ### FENCE (R436, 12_state_config_pmp_mmio.md R172) -/

theorem State.fenceSet_widened {s : State} (below : s.priv ≠ .m) (fiom : s.envcfg.fiom = true) (f : FenceSet) :
    s.fenceSet f = f.widened := by simp [State.fenceSet, below, fiom]

theorem State.fenceSet_encoded {s : State} (h : s.priv = .m ∨ s.envcfg.fiom = false) (f : FenceSet) : s.fenceSet f = f := by
  rcases h with h | h <;> simp [State.fenceSet, h]

/-- The opcode's low bits are the word's, by which a 32-bit word is told from a 16-bit one (30_encoding.md R330). -/
theorem extractLsb'_two_opcodeOf (w : BitVec 32) : (opcodeOf w).extractLsb' 0 2 = w.extractLsb' 0 2 :=
  BitVec.extractLsb'_extractLsb'_of_le (by decide)

/-- MISC-MEM words are of 32 bits and use no register that might be missing. -/
theorem State.baseExec_miscMem (s : State) {w : BitVec 32} (op : opcodeOf w = 0b0001111) :
    s.baseExec w = s.miscMem w := by
  have long : w.extractLsb' 0 2 = 0b11#2 := by rw [← extractLsb'_two_opcodeOf, op]; rfl
  simp [State.baseExec, usedRegs, State.baseOpcode, long, op, systemOpcode]

/-- Whatever the sets order, FENCE retires (92_eei_decisions.md D22). -/
theorem State.miscMem_fence (s : State) {w : BitVec 32} (f3 : funct3Of w = 0) : s.miscMem w = .next (s.retire 4) := by
  rw [State.miscMem, if_pos f3]; rfl

/-- Settles O42: a FENCE word is one of MISC-MEM with funct3 = 000, and in a memory without delay it orders nothing more. -/
theorem fenceUnderFiom : Obligations.FenceUnderFiom := by
  refine fun s f w => ⟨fun below fiom => State.fenceSet_widened below fiom f, fun h => State.fenceSet_encoded h f,
    fun op f3 => ?_⟩
  exact ⟨s.retire 4, (s.baseExec_miscMem op).trans (s.miscMem_fence f3), s.retire_onlyRetired, s.retire_wait 4⟩

/-! ### Custom words (R430, R431) -/

/-- The eight custom rows have one meaning. -/
theorem exec_custom {i : Instr} {hi : BitVec 11} {lo : BitVec 5}
    (h : i ∈ [.custom100011 hi lo, .custom110011 hi lo, .custom100111 hi lo, .custom110111 hi lo, .custom101011 hi lo,
      .custom111011 hi lo, .custom101111 hi lo, .custom111111 hi lo]) (s : State) : exec i s = s.custom i := by
  simp only [List.mem_cons, List.not_mem_nil, or_false] at h
  rcases h with rfl | rfl | rfl | rfl | rfl | rfl | rfl | rfl <;> rfl

theorem State.custom_of_reserved {s : State} {i : Instr} (h : i.wellFormed s.features = false) :
    s.custom i = .next (s.illegal (encode i)) := by
  rw [State.custom, if_neg (by simp [h])]

theorem customCode_range (n : Nat) :
    24 ≤ customCode n ∧ customCode n ≤ 31 ∨ 48 ≤ customCode n ∧ customCode n ≤ 63 := by
  unfold customCode
  split_ifs with designated
  · exact designated
  · exact .inl ⟨by decide, by decide⟩

/-- Disabling and enabling apart, no action is ready on a unit that is Off. -/
theorem State.unitReady_of_off {s : State} {u : StateUnit} (off : s.unitOn u = false) {a : UnitAction}
    (h : a ≠ .disable ∧ a ≠ .enable) : s.unitReady (u, a) = false := by
  simp [State.unitReady, off, h]

/-- An effect with one action that is not ready is not allowed. -/
theorem State.customAllowed_of_not_ready {s : State} {e : CustomEffect} {p : StateUnit × UnitAction} (mem : p ∈ e.units)
    (h : s.unitReady p = false) : s.customAllowed e = false := by
  have units : e.units.all s.unitReady = false := List.all_eq_false.2 ⟨p, mem, by simp [h]⟩
  rw [State.customAllowed, units, Bool.and_false]

theorem State.customRetire_sameBytes (s : State) (e : CustomEffect) : sameBytes s (s.customRetire e) :=
  State.byteAt_congr (s.customRetire_cfg e) (s.customRetire_plat e) (s.customRetire_mem e)

/-- A new state's `pc` is masked in that state, whatever the instruction did to `misa.C`. -/
theorem State.setPc_epcMasked_aligned (t : State) (mx x : Xlen) (v : Word) :
    (t.setPc (widen mx x (t.epcMasked v))).aligned (widen mx x (t.epcMasked v)) = true :=
  (State.aligned_widen _ mx x _).trans (t.epcMasked_aligned v)

theorem State.customRetire_aligned (s : State) (e : CustomEffect) :
    (s.customRetire e).aligned (s.customRetire e).pc = true :=
  State.setPc_epcMasked_aligned _ _ _ _

/-- Settles O43: a word that is defined runs what `customExec` gives, any other is illegal. -/
theorem customWords : Obligations.CustomWords := by
  intro s hi lo i row
  have runs := exec_custom row s
  refine ⟨fun reserved => ?_, fun defined => ⟨?_, fun coherent => answers_exec coherent i⟩, customCode_range,
    fun e t c v raised other => ((s.customAccesses_cases e).2 t c v raised).2 other, fun e u off acts => ?_,
    fun e => ⟨s.customRetire_sameBytes e, s.customRetire_priv e, s.customRetire_cfg e, s.customRetire_plat e,
      s.customRetire_wait e, s.customRetire_inputs e, s.customRetire_aligned e⟩⟩
  · have raises : raisesIllegal i s := runs.trans (State.custom_of_reserved reserved)
    exact ⟨raises, fun here expected => ⟨_, raises, State.raise_enteredM here expected _⟩⟩
  · rw [runs, State.custom, if_pos defined]
    rfl
  · rcases acts with mem | mem | mem <;> exact State.customAllowed_of_not_ready mem (State.unitReady_of_off off (by simp))

end Sys2Proof.Machine

/-! SUPPORT. Interrupts and traps (60_exceptions.md): which interrupt is selected and when, where a trap goes, the critical-error
state and the non-maskable interrupt, and the order of one step. -/

namespace Sys2Proof.Machine

/-! ### The order of one step (60_exceptions.md R510) -/

/-- A running hart that nothing of higher rank stops goes on to its interrupts and its instruction. -/
theorem State.hartStep_eq_interruptOrRun {s : State} {p : PlatIn} (noReset : p.reset = none)
    (alive : s.criticalError = false) (noNmi : s.nmiTaken p = false) (awake : s.wait.stalled = false) :
    s.hartStep p = s.interruptOrRun p := by
  rw [State.hartStep_eq_awake noReset alive noNmi, State.awake, awake]
  rfl

/-- Settles O6: behind everything that goes before it, the fetched instruction runs. -/
theorem stepRunsDecodedInstruction : Obligations.StepRunsDecodedInstruction := by
  rintro s w i ⟨noReset, alive, noNmi, awake, calm, sound⟩ fetched decoded
  exact (State.hartStep_eq_interruptOrRun noReset alive noNmi awake).trans
    (State.interruptOrRun_of_fetched calm sound fetched decoded)

/-- Settles O9: the step is the taking of the interrupt, and that enters the mode. -/
theorem interruptIsTaken : Obligations.InterruptIsTaken := by
  rintro s u i rfl noReset alive noNmi awake
  have runs : step s = (s.sampled s.input).interruptOrRun s.input :=
    State.hartStep_eq_interruptOrRun noReset alive noNmi awake
  exact ⟨fun pending expected => ⟨_, runs.trans (State.interruptOrRun_of_pending pending _),
      State.takeInterrupt_enteredM expected i⟩,
    fun pending sdt => ⟨_, runs.trans (State.interruptOrRun_of_pending pending _),
      State.takeInterrupt_enteredS sdt i⟩⟩

/-! ### The priority of interrupts (R464) -/

/-- The selected cause is the first one of the order that is in the set. -/
theorem State.selectIrq_of_split (s : State) {set : Word} {before after : List Nat} {i : Nat}
    (order : s.irqOrder = before ++ i :: after) (earlier : ∀ j ∈ before, set.getLsbD j = false)
    (mem : set.getLsbD i = true) : s.selectIrq set = some i := by
  have skipped : before.find? (fun j => set.getLsbD j) = none :=
    List.find?_eq_none.2 fun j hj => by simp [earlier j hj]
  rw [State.selectIrq, order, List.find?_append, skipped, Option.none_or, List.find?_cons_of_pos mem]

theorem State.getLsbD_of_selectIrq {s : State} {set : Word} {i : Nat} (h : s.selectIrq set = some i) :
    set.getLsbD i = true := List.find?_some (p := fun j => set.getLsbD j) h

/-- Settles O11: without platform interrupts the list is the order of service. -/
theorem interruptPriority : Obligations.InterruptPriority := fun s _ _ _ _ none split =>
  s.selectIrq_of_split (by rw [State.irqOrder, none, List.nil_append, split])

/-! ### Pending interrupts are all in the order of service (R462 to R464) -/

theorem mem_of_getLsbD_causeMask {l : List Nat} {i : Nat} (h : (causeMask l).getLsbD i = true) : i ∈ l := by
  have inRange := BitVec.lt_of_getLsbD h
  induction l with
  | nil => simp [causeMask] at h
  | cons k l ih =>
    rw [causeMask, BitVec.getLsbD_or, Bool.or_eq_true, getLsbD_flag _ _ _ inRange] at h
    rcases h with here | later
    · simp_all
    · exact List.mem_cons_of_mem _ (ih later)

theorem getLsbD_of_narrow {x : Xlen} {v : Word} {i : Nat} (h : (narrow x v).getLsbD i = true) : v.getLsbD i = true := by
  cases x
  · simp only [narrow, BitVec.getLsbD_setWidth, Bool.and_eq_true] at h
    obtain ⟨-, -, on⟩ := h
    exact on
  · exact h

theorem State.mem_platIrqs_of_platMask {s : State} {i : Nat} (h : s.platMask.getLsbD i = true) : i ∈ s.cfg.platIrqs := by
  rw [State.platMask, BitVec.getLsbD_and, Bool.and_eq_true] at h
  obtain ⟨cause, -⟩ := h
  exact mem_of_getLsbD_causeMask (getLsbD_of_narrow cause)

/-- Every bit that `mie` can hold is that of a cause in the order of service. -/
theorem State.mem_irqOrder_of_mieMask {s : State} {i : Nat} (h : s.mieMask.getLsbD i = true) : i ∈ s.irqOrder := by
  have inRange := BitVec.lt_of_getLsbD h
  simp only [State.mieMask, BitVec.getLsbD_or, getLsbD_flag _ _ _ inRange, Bool.or_eq_true, Bool.and_eq_true,
    decide_eq_true_eq] at h
  simp only [State.irqOrder, List.mem_append, List.mem_cons, List.not_mem_nil, or_false]
  rcases h with ((((((std | std) | std) | std) | std) | std) | std) | plat
  case inr => exact .inl (State.mem_platIrqs_of_platMask plat)
  all_goals simp [std.2]

theorem exists_getLsbD_of_ne_zero {v : Word} (h : v ≠ 0) : ∃ i, v.getLsbD i = true := by
  by_contra none
  exact h (BitVec.eq_of_getLsbD_eq fun i _ => by simpa using fun on => none ⟨i, on⟩)

/-- From a set of individually enabled interrupts that is not empty some cause is selected. -/
theorem State.selectIrq_of_ne_zero (s : State) {set : Word} (enabled : ∀ i, set.getLsbD i = true → s.mieRead.getLsbD i = true)
    (h : set ≠ 0) : ∃ i, s.selectIrq set = some i := by
  obtain ⟨i, on⟩ := exists_getLsbD_of_ne_zero h
  have writable : s.mieMask.getLsbD i = true := by
    have read := enabled i on
    rw [State.mieRead, BitVec.getLsbD_and, Bool.and_eq_true] at read
    exact read.2
  exact Option.isSome_iff_exists.1 (List.find?_isSome.2 ⟨i, State.mem_irqOrder_of_mieMask writable, on⟩)

/-! ### Where an interrupt traps to (R462, R463) -/

theorem State.getLsbD_mSet (s : State) (i : Nat) : s.mSet.getLsbD i = true ↔
    s.mipRead.getLsbD i = true ∧ s.mieRead.getLsbD i = true ∧ s.midelegEff.getLsbD i = false := by
  have inRange := @BitVec.lt_of_getLsbD 64 s.mipRead i
  simp only [State.mSet, BitVec.getLsbD_and, BitVec.getLsbD_not, Bool.and_eq_true, decide_eq_true_eq, Bool.not_eq_true']
  tauto

theorem State.getLsbD_sSet (s : State) (i : Nat) : s.sSet.getLsbD i = true ↔
    s.mipRead.getLsbD i = true ∧ s.mieRead.getLsbD i = true ∧ s.midelegEff.getLsbD i = true := by
  simp [State.sSet, and_assoc]

theorem State.mEnabled_iff (s : State) : s.mEnabled = true ↔ s.priv = .m ∧ s.csr.mstatus.mie = true ∨ s.priv ≠ .m := by
  have mie : s.status.mie = s.csr.mstatus.mie := rfl
  simp only [State.mEnabled, mie, Bool.or_eq_true, bne_iff_ne]
  tauto

theorem State.sEnabled_iff (s : State) (h : s.hasS = true) :
    s.sEnabled = true ↔ s.priv = .s ∧ s.csr.mstatus.sie = true ∨ s.priv = .u := by
  have sie : s.status.sie = s.csr.mstatus.sie := by simp [State.status, h]
  unfold State.sEnabled
  cases s.priv <;> simp [sie]

theorem State.sEnabled_below {s : State} (h : s.sEnabled = true) : s.priv ≠ .m := by
  intro mode
  simp [State.sEnabled, mode] at h

/-- An interrupt traps to M-mode just where one for M-mode is selected and M-mode interrupts are enabled. -/
theorem State.pendingInterrupt_m_iff (s : State) (i : Nat) :
    s.pendingInterrupt = some (false, i) ↔ s.mEnabled = true ∧ s.mSet ≠ 0 ∧ s.selectIrq s.mSet = some i := by
  unfold State.pendingInterrupt
  split_ifs with m sup
  · simp_all
  · simp_all
  · simp_all

/-- An interrupt traps to S-mode just where none for M-mode goes before it and one for S-mode is selected and enabled. -/
theorem State.pendingInterrupt_s_iff (s : State) (i : Nat) :
    s.pendingInterrupt = some (true, i) ↔ (s.mEnabled && s.mSet != 0) = false ∧ s.hasS = true ∧ s.sEnabled = true ∧
      s.sSet ≠ 0 ∧ s.selectIrq s.sSet = some i := by
  unfold State.pendingInterrupt
  split_ifs with m sup
  · simp_all
  · simp_all
  · simp_all

/-- While `MDT` is set, M-mode interrupts are not enabled in M-mode. -/
theorem State.not_mEnabled_of_mdt {s : State} (ok : s.mdtOk = true) (present : s.cfg.ext.smdbltrp = true)
    (mdt : s.csr.mstatus.mdt = true) (mode : s.priv = .m) : s.mEnabled = false := by
  have mie : s.csr.mstatus.mie = false := by simpa [State.mdtOk, present, mdt, mode] using ok
  rw [← Bool.not_eq_true, s.mEnabled_iff]
  simp [mode, mie]

/-- Settles O10: the two sets are those of the statement, and an interrupt of a set that is not empty is selected. -/
theorem interruptCondition : Obligations.InterruptCondition := by
  refine fun s => ⟨fun i pending => ?_, fun on ne => ?_, fun ok present mdt mode i pending => ?_, fun i pending => ?_,
    fun present on none ne => ?_⟩
  · obtain ⟨enabled, -, selected⟩ := (s.pendingInterrupt_m_iff i).1 pending
    obtain ⟨mip, mie, delegated⟩ := (s.getLsbD_mSet i).1 (State.getLsbD_of_selectIrq selected)
    refine ⟨s.mEnabled_iff.1 enabled, mip, mie, fun present => ?_⟩
    rwa [State.midelegEff, if_pos present] at delegated
  · obtain ⟨i, selected⟩ := s.selectIrq_of_ne_zero (fun i h => ((s.getLsbD_mSet i).1 h).2.1) ne
    exact ⟨i, (s.pendingInterrupt_m_iff i).2 ⟨s.mEnabled_iff.2 on, ne, selected⟩⟩
  · have enabled := ((s.pendingInterrupt_m_iff i).1 pending).1
    rw [State.not_mEnabled_of_mdt ok present mdt mode] at enabled
    cases enabled
  · obtain ⟨noM, present, enabled, -, selected⟩ := (s.pendingInterrupt_s_iff i).1 pending
    obtain ⟨mip, mie, delegated⟩ := (s.getLsbD_sSet i).1 (State.getLsbD_of_selectIrq selected)
    have eff : s.midelegEff = s.midelegRead := if_pos present
    have mOn := s.mEnabled_iff.2 (.inr (State.sEnabled_below enabled))
    have empty : s.mSet = 0 := by simpa [mOn] using noM
    rw [State.mSet, eff] at empty
    exact ⟨present, (s.sEnabled_iff present).1 enabled, mip, mie, eff ▸ delegated, empty⟩
  · have eff : s.midelegEff = s.midelegRead := if_pos present
    rw [← eff] at none ne
    obtain ⟨i, selected⟩ := s.selectIrq_of_ne_zero (fun i h => ((s.getLsbD_sSet i).1 h).2.1) ne
    have empty : s.mSet = 0 := none
    exact ⟨i, (s.pendingInterrupt_s_iff i).2 ⟨by simp [empty], present, (s.sEnabled_iff present).2 on, ne, selected⟩⟩

/-! ### A trap into M-mode (R480, R492, R493) -/

/-- A trap into M-mode is unexpected just where `MDT` is set, or in M-mode with `NMIE` clear. -/
theorem State.unexpected_iff (s : State) : s.unexpected = true ↔ s.cfg.ext.smdbltrp = true ∧
    (s.csr.mstatus.mdt = true ∨ s.cfg.ext.smrnmi = true ∧ s.priv = .m ∧ s.rnmi.nmie = false) := by
  have mdt : s.status.mdt = (s.cfg.ext.smdbltrp && s.csr.mstatus.mdt) := rfl
  simp only [State.unexpected, mdt, Bool.and_eq_true, Bool.or_eq_true, Bool.not_eq_true', beq_iff_eq]
  tauto

theorem State.rnmiReady_iff (s : State) : s.rnmiReady = true ↔ s.cfg.ext.smrnmi = true ∧ s.rnmi.nmie = true :=
  Bool.and_eq_true_iff

theorem State.trapM_of_expected {s : State} (h : s.unexpected = false) (isInt : Bool) (code : Nat) (tval : Word) :
    s.trapM isInt code tval = s.enterM isInt code tval := by
  simp [State.trapM, h]

theorem State.trapM_of_rnmiReady {s : State} (h : s.unexpected = true) (ready : s.rnmiReady = true) (isInt : Bool)
    (code : Nat) (tval : Word) : s.trapM isInt code tval = s.enterRnmi .m (causeWord s.cfg.mxlen isInt code) := by
  simp [State.trapM, h, ready]

theorem State.trapM_of_fatal {s : State} (h : s.unexpected = true) (noHandler : s.rnmiReady = false) (isInt : Bool)
    (code : Nat) (tval : Word) : s.trapM isInt code tval = s.setCriticalError true := by
  simp [State.trapM, h, noHandler]

/-- The entry of the RNMI handler leaves the landing-pad bits as any entry of M-mode, `MPELP` and `SPELP` as they are. -/
theorem State.enterRnmi_landingPad (s : State) (y : Priv) (cause : Word) : landingPad .m s (s.enterRnmi y cause) :=
  ⟨fun absent => ⟨State.elpIn_of_absent absent .m, rfl, rfl⟩, fun present off => State.elpIn_of_disabled present off⟩

/-- Settles O27: the three clauses are the three branches of a trap into M-mode. -/
theorem trapIntoMachineMode : Obligations.TrapIntoMachineMode := by
  refine fun s isInt code tval => ⟨fun delivered => ?_, fun present mdt smrnmi nmie => ?_, fun present lost => ?_⟩
  · have expected : s.unexpected = false := by
      rw [← Bool.not_eq_true, s.unexpected_iff]
      rintro ⟨present, mdt | ⟨smrnmi, mode, nmie⟩⟩
      · simp [present, mdt] at delivered
      · simp [present, smrnmi, mode, nmie] at delivered
    rw [State.trapM_of_expected expected]
    exact s.enterM_entered isInt code tval
  · have unexpected := s.unexpected_iff.2 ⟨present, .inl mdt⟩
    have ready := s.rnmiReady_iff.2 ⟨smrnmi, nmie⟩
    rw [State.trapM_of_rnmiReady unexpected ready]
    exact ⟨rfl, s.enterRnmi_landingPad _ _⟩
  · have unexpected : s.unexpected = true := s.unexpected_iff.2 ⟨present, lost.imp And.left id⟩
    have noHandler : s.rnmiReady = false := by
      rw [← Bool.not_eq_true, s.rnmiReady_iff]
      rintro ⟨smrnmi, nmie⟩
      simp [smrnmi, nmie] at lost
    exact State.trapM_of_fatal unexpected noHandler isInt code tval

/-! ### The target of an exception (R481, 11_state_trap_csrs.md R114) -/

theorem State.delegated_iff (s : State) (code : Nat) :
    s.delegated code = true ↔ s.hasS = true ∧ s.priv ≠ .m ∧ s.medelegRead.getLsbD code = true := by
  simp [State.delegated, and_assoc]

/-- Settles O28: delegation is what tells the two targets apart. -/
theorem exceptionTargetMode : Obligations.ExceptionTargetMode := by
  refine fun s code tval => ⟨fun present below bit sdt => ?_, fun stays expected => ?_⟩
  · exact State.raise_enteredS ((s.delegated_iff code).2 ⟨present, below, bit⟩) sdt tval
  · have here : s.delegated code = false := by
      rw [← Bool.not_eq_true, s.delegated_iff]
      rintro ⟨present, below, bit⟩
      simp [present, below, bit] at stays
    exact State.raise_enteredM here expected tval

/-! ### The critical-error state (R493, R494) -/

/-- Settles O32: the trap is unexpected, no handler takes it, and in M-mode nothing is delegated. -/
theorem ecallWithMdtIsCritical : Obligations.EcallWithMdtIsCritical := by
  intro s present noRnmi mode mdt
  have unexpected := s.unexpected_iff.2 ⟨present, .inl mdt⟩
  have fatal : s.fatal = true := by simp [State.fatal, unexpected, State.rnmiReady, noRnmi]
  have here (code : Nat) : s.delegated code = false := by simp [State.delegated, mode]
  rw [exec_ecall, State.raise, fatal, here]
  rfl

/-- In the critical-error state the platform's part of a step leaves the machine-level registers. -/
theorem State.sampled_csr_of_critical {s : State} (h : s.criticalError = true) (p : PlatIn) : (s.sampled p).csr = s.csr := by
  have moved :
      ((s.platformMoves p).synchronised p).criticalError = true ∧ ((s.platformMoves p).synchronised p).csr = s.csr := by
    unfold State.synchronised State.platformMoves
    split <;> simp [h]
  obtain ⟨stuck, same⟩ := moved
  simp [State.sampled, State.requested, stuck, same]

theorem State.hartStep_of_critical {s : State} {p : PlatIn} (noReset : p.reset = none) (h : s.criticalError = true) :
    s.hartStep p = .next s.criticalStep := by
  simp [State.hartStep, noReset, h]

/-- Settles O33: the step writes two counters, and the platform's part of it nothing of the hart. -/
theorem criticalErrorAbsorbs : Obligations.CriticalErrorAbsorbs := by
  intro s stuck noReset
  refine ⟨_, State.hartStep_of_critical noReset (by rw [State.sampled_criticalError, stuck]), ?_⟩
  simp [State.criticalStep, State.sampled_csr_of_critical stuck, stuck]

/-! ### The non-maskable interrupt (R500 to R502, 92_eei_decisions.md D27) -/

theorem State.hartStep_of_nmi {s : State} {p : PlatIn} (noReset : p.reset = none) (alive : s.criticalError = false)
    (taken : s.nmiTaken p = true) : s.hartStep p = .next s.takeNmi := by
  simp [State.hartStep, noReset, alive, taken]

theorem State.takeNmi_of_mdt {s : State} (noRnmi : s.cfg.ext.smrnmi = false) (present : s.cfg.ext.smdbltrp = true)
    (mdt : s.csr.mstatus.mdt = true) : s.takeNmi = s.setCriticalError true := by
  simp [State.takeNmi, noRnmi, State.status, present, mdt]

theorem State.takeNmi_of_delivered {s : State} (noRnmi : s.cfg.ext.smrnmi = false)
    (clear : s.cfg.ext.smdbltrp = false ∨ s.csr.mstatus.mdt = false) : s.takeNmi = s.countIdle.enterNmi := by
  rcases clear with absent | mdt
  · simp [State.takeNmi, noRnmi, absent]
  · simp [State.takeNmi, noRnmi, State.status, mdt]

/-- The entry of the NMI handler pushes the `mstatus` stack, `MDT` with Smdbltrp. -/
theorem State.enterNmi_mstatus (s : State) : s.enterNmi.csr.mstatus = { s.csr.mstatus with
    mpie := s.csr.mstatus.mie, mie := false, mpp := s.priv, mdt := s.cfg.ext.smdbltrp || s.csr.mstatus.mdt,
    mpelp := s.enterNmi.csr.mstatus.mpelp } := by
  simp [State.enterNmi]

/-- The entry of the NMI handler is one into M-mode for the landing-pad bits. -/
theorem State.enterNmi_landingPad (s : State) : landingPad .m s s.enterNmi := by
  refine ⟨fun absent => ⟨State.elpIn_of_absent absent .m, ?_, rfl⟩,
    fun present off => State.elpIn_of_disabled present off⟩
  simp [State.enterNmi, State.nextMpelp, absent]

theorem State.nmiTaken_of_requested {s : State} {p : PlatIn} (requested : p.nmi = true) (wired : s.cfg.nmiImpl = true)
    (noRnmi : s.cfg.ext.smrnmi = false) : s.nmiTaken p = true := by
  simp [State.nmiTaken, requested, wired, noRnmi]

/-- Settles O34: one is taken before everything but a reset and the critical-error state. -/
theorem nonMaskableInterrupt : Obligations.NonMaskableInterrupt := by
  rintro s u rfl noReset alive requested wired noRnmi
  have steps : step s = .next (s.sampled s.input).takeNmi :=
    State.hartStep_of_nmi noReset alive (State.nmiTaken_of_requested requested wired noRnmi)
  generalize s.sampled s.input = u at *
  refine ⟨fun present mdt => ?_, fun clear => ⟨u.countIdle.enterNmi, ?_, ?_⟩⟩
  · rw [steps, State.takeNmi_of_mdt noRnmi present mdt]
    rfl
  · rw [steps, State.takeNmi_of_delivered noRnmi clear]
  · have minstret := u.countIdle_minstret
    have still (one : u.cfg.mcycleStep = .one) : u.countIdle.cnt = u.cnt := by rw [u.countIdle_one one]
    obtain ⟨n, l, counts⟩ := u.countIdle_cases
    rw [counts] at minstret still ⊢
    refine ⟨rfl, rfl, rfl, ?_, rfl, rfl, rfl, minstret, still, State.enterNmi_landingPad _, fun _ => rfl, fun _ => rfl,
      ⟨⟨rfl, rfl, rfl, rfl, rfl, rfl, rfl, rfl⟩, rfl, rfl⟩,
      ⟨rfl, rfl, rfl, rfl, rfl, rfl, rfl, rfl, rfl, rfl, rfl, rfl, rfl, rfl⟩, rfl⟩
    exact State.enterNmi_mstatus _

end Sys2Proof.Machine

/-! SUPPORT. The privilege mode across a step (60_exceptions.md R522): traps raise it, every instruction but a trap return keeps
it or traps, so that it falls only by a trap return. -/

namespace Sys2Proof.Machine

/-! ### What does not lower the mode -/

/-- The mode is as before, or M, or S where an S-mode is there and the mode was below M (11_state_trap_csrs.md R114). -/
def privRises (s t : State) : Prop := t.priv = s.priv ∨ t.priv = .m ∨ t.priv = .s ∧ s.hasS = true ∧ s.priv ≠ .m

theorem privRises_of_eq {s t : State} (h : t.priv = s.priv) : privRises s t := .inl h

theorem privRises_of_m {s t : State} (h : t.priv = .m) : privRises s t := .inr (.inl h)

theorem privRises.not_lower {s t : State} (h : privRises s t) : ¬ t.priv.code.toNat < s.priv.code.toNat := by
  rcases h with same | top | ⟨sup, -, below⟩
  · simp [same]
  · rw [top]
    cases s.priv <;> decide
  · rw [sup]
    cases mode : s.priv with
    | m => exact absurd mode below
    | u | s => decide

theorem State.hasS_congr {s t : State} (hc : t.cfg = s.cfg) (hm : t.csr.misa = s.csr.misa) : t.hasS = s.hasS := by
  simp only [State.hasS, State.hasU, State.letter, hc, hm]

/-- What happens first without a change of the mode, the configuration or `misa` does not matter. -/
theorem privRises.of_unchanged {s q t : State} (h : privRises q t) (hc : q.cfg = s.cfg) (hm : q.csr.misa = s.csr.misa)
    (hp : q.priv = s.priv) : privRises s t := by
  unfold privRises at h ⊢
  rwa [State.hasS_congr hc hm, hp] at h

/-! ### Traps (R480, R481, R500) -/

theorem State.trapM_privRises (s : State) (i : Bool) (c : Nat) (v : Word) : privRises s (s.trapM i c v) := by
  unfold State.trapM
  split
  · split
    · exact privRises_of_m rfl
    · exact privRises_of_eq rfl
  · exact privRises_of_m rfl

/-- A trap into S-mode is asked for only below M-mode and where S-mode is there. -/
theorem State.deliver_privRises (s : State) {toS : Bool} (allowed : toS = true → s.hasS = true ∧ s.priv ≠ .m) (i : Bool)
    (c : Nat) (v : Word) : privRises s (s.deliver toS i c v) := by
  cases toS with
  | false => exact s.trapM_privRises i c v
  | true =>
    rw [State.deliver, if_pos rfl, State.trapS]
    split
    · exact s.trapM_privRises _ _ _
    · exact .inr (.inr ⟨rfl, allowed rfl⟩)

theorem State.raise_privRises (s : State) (c : Nat) (v : Word) : privRises s (s.raise c v) := by
  rcases s.raise_cases c v with e | e <;> rw [e]
  · exact privRises_of_eq rfl
  · refine privRises.of_unchanged (q := s.countTrapped) (State.deliver_privRises _ (fun there => ?_) _ _ _)
      (by simp) (by simp) (by simp)
    obtain ⟨present, below, -⟩ := (s.delegated_iff c).1 there
    exact ⟨(State.hasS_congr (by simp) (by simp)).trans present, s.countTrapped_priv ▸ below⟩

/-- An interrupt for S-mode is pending only below M-mode and where S-mode is there. -/
theorem State.takeInterrupt_privRises {s : State} {toS : Bool} {i : Nat} (pending : s.pendingInterrupt = some (toS, i)) :
    privRises s (s.takeInterrupt toS i) := by
  unfold State.takeInterrupt
  split
  · exact privRises_of_eq rfl
  · refine privRises.of_unchanged (q := s.countIdle) (State.deliver_privRises _ (fun there => ?_) _ _ _)
      (by simp) (by simp) (by simp)
    obtain ⟨-, present, enabled, -⟩ := (s.pendingInterrupt_s_iff i).1 (there ▸ pending)
    exact ⟨(State.hasS_congr (by simp) (by simp)).trans present, s.countIdle_priv ▸ State.sEnabled_below enabled⟩

theorem State.takeNmi_privRises (s : State) : privRises s s.takeNmi := by
  unfold State.takeNmi
  split
  · exact privRises_of_m rfl
  · split
    · exact privRises_of_eq rfl
    · exact privRises_of_m rfl

theorem State.idle_privRises (s : State) : privRises s s.idle := by
  unfold State.idle
  split
  · exact privRises_of_eq s.countIdle_priv
  · exact State.raise_privRises (s.setWait .running) _ _
  · exact privRises_of_eq s.countIdle_priv

/-! ### Instructions -/

/-- Stores before the exception do not matter. -/
theorem State.physWriteAll_raise_privRises (s : State) (cs : List (Nat × Byte)) (c : Nat) (v : Word) :
    privRises s ((s.physWriteAll cs).raise c v) :=
  (State.raise_privRises _ c v).of_unchanged (by simp) (by simp) (by simp)

theorem baseEffect.privRises {s t : State} (h : baseEffect s t) : privRises s t := by
  obtain ⟨cs, ⟨c, v, rfl⟩ | ⟨r, v, a, u, rfl, rfl | rfl, -⟩⟩ := h
  · exact s.physWriteAll_raise_privRises cs c v
  · exact privRises_of_eq (by simp)
  · exact privRises_of_eq (by simp)

theorem State.unlessReserved_privRises {s t : State} (i : Instr) (h : privRises s t) : privRises s (s.unlessReserved i t) := by
  unfold State.unlessReserved
  split
  · exact h
  · exact s.raise_privRises _ _

theorem State.csrInstr_privRises (s : State) (u : CsrUse) (w : BitVec 32) : privRises s (s.csrInstr u w) := by
  unfold State.csrInstr
  split
  · exact s.raise_privRises _ _
  · split
    · exact privRises_of_eq (s.csrPerform_priv u _)
    · exact s.raise_privRises _ _

theorem State.wfi_privRises {s t : State} (h : exec .wfi s = .next t) : privRises s t := by
  rw [exec_wfi] at h
  cases h
  split
  · exact s.raise_privRises _ _
  · split
    · unfold State.wfiLimited
      split
      · exact s.raise_privRises _ _
      · split
        · exact privRises_of_eq s.countIdle_priv
        · exact privRises_of_eq (s.retire_priv 4)
    · exact privRises_of_eq (s.retire_priv 4)

theorem State.custom_privRises {s t : State} {i : Instr} (h : s.custom i = .next t) : privRises s t := by
  unfold State.custom at h
  split at h
  · split at h
    · cases h; exact s.raise_privRises _ _
    · cases h; exact s.raise_privRises _ _
    · rename_i f _
      split at h
      · unfold State.onAccess at h
        split at h
        · rename_i u hu
          obtain ⟨cs, rfl⟩ := (s.customAccesses_cases _).1 u hu
          cases h
          exact privRises_of_eq (by simp)
        · rename_i u c v hu
          obtain ⟨⟨cs, rfl⟩, -⟩ := (s.customAccesses_cases _).2 u c v hu
          cases h
          exact s.physWriteAll_raise_privRises cs c v
        · cases h
      · cases h; exact s.raise_privRises _ _
  · cases h; exact s.raise_privRises _ _

/-- Every instruction of the table but a trap return keeps the mode or traps. -/
theorem exec_privRises_or_return {i : Instr} {s t : State} (h : exec i s = .next t) :
    privRises s t ∨ i = .mret ∨ i = .sret ∨ i = .mnret := by
  cases i with
  | mret => exact .inr (.inl rfl)
  | sret => exact .inr (.inr (.inl rfl))
  | mnret => exact .inr (.inr (.inr rfl))
  | csrrw | csrrs | csrrc | csrrwi | csrrsi | csrrci =>
    cases h
    exact .inl (State.unlessReserved_privRises _ (s.csrInstr_privRises _ _))
  | ecall | ebreak => cases h; exact .inl (s.raise_privRises _ _)
  | cEbreak => cases h; exact .inl (State.unlessReserved_privRises _ (s.raise_privRises _ _))
  | wfi => exact .inl (State.wfi_privRises h)
  | sfenceVma | sinvalVma =>
    cases h
    refine .inl (State.unlessReserved_privRises _ ?_)
    split
    · exact s.raise_privRises _ _
    · exact privRises_of_eq (s.retire_priv 4)
  | custom100011 | custom110011 | custom100111 | custom110111 | custom101011 | custom111011 | custom101111
  | custom111111 => exact .inl (State.custom_privRises h)

/-! ### The step (R510) -/

/-- The hart's part of a step keeps the mode or raises it, or a trap return was fetched. -/
def risesOrReturns (s t : State) : Prop :=
  privRises s t ∨ ∃ w i, s.fetch = .ok w ∧ decodeWord w = .ok i ∧ (i = .mret ∨ i = .sret ∨ i = .mnret)

theorem State.runWord_risesOrReturns {s t : State} {w : BitVec 32} (fetched : s.fetch = .ok w) (h : s.runWord w = .next t) :
    risesOrReturns s t := by
  unfold State.runWord at h
  split at h
  · rename_i i decoded
    exact (exec_privRises_or_return h).imp_right fun isReturn => ⟨w, i, fetched, decoded, isReturn⟩
  · exact .inl (s.baseExec_next t w h).privRises

theorem State.fetchAndRun_risesOrReturns {s t : State} {hwError : Option Word} (h : s.fetchAndRun hwError = .next t) :
    risesOrReturns s t := by
  unfold State.fetchAndRun at h
  split at h
  · rename_i w fetched
    split at h
    · unfold State.runFetched at h
      split at h
      · exact State.runWord_risesOrReturns fetched h
      · unfold State.runLong State.onAccess at h
        split at h
        · cases h; exact .inl (s.raise_privRises _ _)
        · rename_i raised
          cases h
          exact .inl (s.fetchTail_exc _ _ _ _ raised ▸ s.raise_privRises _ _)
        · cases h
    · cases h; exact .inl (s.raise_privRises _ _)
  · rename_i raised
    cases h
    exact .inl (s.fetch_exc _ _ _ raised ▸ s.raise_privRises _ _)
  · cases h

theorem State.interruptOrRun_risesOrReturns {s t : State} {p : PlatIn} (h : s.interruptOrRun p = .next t) :
    risesOrReturns s t := by
  unfold State.interruptOrRun at h
  split at h
  · rename_i pending
    cases h
    exact .inl (State.takeInterrupt_privRises pending)
  · exact State.fetchAndRun_risesOrReturns h

/-- A hart that goes on after a wait fetches what the stalled one would have. -/
theorem risesOrReturns_of_running {s t : State} (h : risesOrReturns (s.setWait .running) t) : risesOrReturns s t :=
  h.imp id fun ⟨w, i, fetched, rest⟩ => ⟨w, i, s.fetch_of_setWait w fetched, rest⟩

theorem State.awake_risesOrReturns {s t : State} {p : PlatIn} (h : s.awake p = .next t) : risesOrReturns s t := by
  unfold State.awake at h
  split at h
  · exact State.interruptOrRun_risesOrReturns h
  · split at h
    · cases h; exact .inl s.idle_privRises
    · split at h
      · cases h; exact .inl (privRises_of_eq (s.retire_priv 4))
      · exact risesOrReturns_of_running (State.interruptOrRun_risesOrReturns h)

theorem State.hartStep_risesOrReturns {s t : State} {p : PlatIn} (h : s.hartStep p = .next t) : risesOrReturns s t := by
  unfold State.hartStep at h
  split at h
  · cases h; exact .inl (privRises_of_m rfl)
  · split at h
    · cases h; exact .inl (privRises_of_eq rfl)
    · split at h
      · cases h; exact .inl s.takeNmi_privRises
      · exact State.awake_risesOrReturns h

/-- Settles O59: a step that keeps or raises the mode does not lower it, and the platform's part leaves it alone. -/
theorem privilegeFallsOnlyByReturn : Obligations.PrivilegeFallsOnlyByReturn := fun s _ h lower =>
  (State.hartStep_risesOrReturns h).resolve_left fun rises =>
    rises.not_lower ((s.sampled_priv s.input).symm ▸ lower)

end Sys2Proof.Machine

/-! SUPPORT. Isolation of U-mode (60_exceptions.md R521): the privilege that the address of a CSR demands, what counting and the
CSR writes of an instruction can change, and that a step within U-mode leaves the machine-level registers and PMP. -/

namespace Sys2Proof.Machine

/-! ### The privilege of a CSR (40_csr_access.md R364, R369) -/

/-- The lowest privilege encoding from which the register can be addressed; a custom CSR may stand at any address. -/
def CsrName.level : CsrName → Nat
  | .sstatus | .sie | .stvec | .scounteren | .sepc | .scause | .stval | .sip | .stimecmp | .stimecmph | .satp
  | .senvcfg => 1
  | .shadow _ _ | .seed | .fflags | .frm | .fcsr | .vstart | .vxsat | .vxrm | .vcsr | .vl | .vtype | .vlenb
  | .custom _ => 0
  | _ => 3

theorem level_of_mem_table : ∀ e ∈ csrTableM ++ csrTableOther, e.2.level = (e.1.extractLsb' 8 2).toNat := by decide

/-- Bits 9:8 of the address of a register of the map are its level. -/
theorem csrNamed_level {a : BitVec 12} {n : CsrName} (h : csrNamed a = some n) : n.level = (a.extractLsb' 8 2).toNat := by
  have bits : (a.extractLsb' 8 2).toNat = a.toNat / 256 % 4 := by
    rw [BitVec.extractLsb'_toNat, Nat.shiftRight_eq_div_pow]
  simp only [csrNamed] at h
  split_ifs at h
  case neg =>
    obtain ⟨e, found, rfl⟩ := Option.map_eq_some_iff.1 h
    have here : e.1 = a := by simpa using List.find?_some found
    rw [level_of_mem_table e (List.mem_of_find?_eq_some found), here]
  all_goals
    cases h
    simp only [CsrName.level]
    omega

theorem State.csrAt_level {s : State} {a : BitVec 12} {n : CsrName} (h : s.csrAt a = some n) :
    n.level ≤ (a.extractLsb' 8 2).toNat := by
  unfold State.csrAt at h
  split at h
  · rename_i named
    cases h
    exact (csrNamed_level named).le
  · split_ifs at h
    cases h
    exact Nat.zero_le _

/-- An access that passes the checks is made with the privilege that the register demands. -/
theorem State.level_of_csrAllowed {s : State} {a : BitVec 12} {n : CsrName} {writes : Bool} (named : s.csrAt a = some n)
    (allowed : s.csrAllowed n a writes = true) : n.level ≤ s.priv.code.toNat := by
  simp only [State.csrAllowed, State.privAllows, Bool.and_eq_true, decide_eq_true_eq] at allowed
  obtain ⟨⟨⟨-, privileged⟩, -⟩, -⟩ := allowed
  exact (State.csrAt_level named).trans privileged

/-! ### What counting, a read and the units can change -/

/-- The machine-level registers but for `FS`, `VS` and `mip.LCOFIP`, which U-mode instructions change. -/
def Csrs.machinePart (c : Csrs) : Csrs := { c with mstatus := { c.mstatus with fs := 0, vs := 0 }, lcofip := false }

/-- Nothing changed but counters, registers of units and their status. -/
structure OnlyCounted (s t : State) : Prop where
  cfg_eq : t.cfg = s.cfg
  priv_eq : t.priv = s.priv
  pc_eq : t.pc = s.pc
  rnmi_eq : t.rnmi = s.rnmi
  pmp_eq : t.pmp = s.pmp
  machine_eq : t.csr.machinePart = s.csr.machinePart

theorem State.countRetired_onlyCounted (s : State) (skip : Option CounterSel) : OnlyCounted s (s.countRetired skip) := by
  obtain ⟨n, l, e⟩ := s.countRetired_cases skip
  rw [e]
  exact ⟨rfl, rfl, rfl, rfl, rfl, rfl⟩

theorem State.noteRead_onlyCounted (s : State) (n : CsrName) : OnlyCounted s (s.noteRead n) := by
  refine ⟨by simp, by simp, by simp, by simp, by simp, ?_⟩
  cases n
  case custom a => exact congrArg Csrs.machinePart (s.customCsrNote_csr a)
  all_goals rfl

theorem State.unitSteps_onlyCounted (s : State) (l : List (StateUnit × UnitAction)) : OnlyCounted s (s.unitSteps l) := by
  obtain ⟨fs, vs, st, e⟩ := s.unitSteps_cases l
  rw [e]
  exact ⟨rfl, rfl, rfl, rfl, rfl, rfl⟩

/-! ### The CSR writes of an instruction -/

/-- A claim that counting, reads and actions on units keep, and every CSR write with a privilege. -/
structure WriteClaim (level : Nat) (P : State → Prop) : Prop where
  congr : ∀ {s t : State}, OnlyCounted s t → P s → P t
  csrWrite : ∀ {n : CsrName}, n.level ≤ level → ∀ (s : State) (w : Word), P s → P (s.csrWrite w n)

theorem WriteClaim.csrTouched {level : Nat} {P : State → Prop} (h : WriteClaim level P) {s : State} (hs : P s) (u : CsrUse)
    {n : CsrName} (privileged : n.level ≤ level) : P (s.csrTouched u n) := by
  have counted := h.congr (s.countRetired_onlyCounted (u.skips n)) hs
  have read : P ((s.countRetired (u.skips n)).csrAfterRead u n) := by
    unfold State.csrAfterRead
    split
    · exact h.congr (State.noteRead_onlyCounted _ n) counted
    · exact counted
  unfold State.csrTouched State.csrAfterWrite
  split
  · exact h.csrWrite privileged _ _ read
  · exact read

/-- The state of a custom instruction that retires before its registers and `pc` are written. -/
def State.customTouched (s : State) (e : CustomEffect) : State :=
  (((s.countRetired none).unitSteps e.units).customCsrWrites (s.customCsrs e)).unitSteps
    (e.units.filter (fun p => p.2 == .modify))

theorem State.customRetire_eq (s : State) (e : CustomEffect) : s.customRetire e = ((s.customTouched e).customRegs e.regs).setPc
    (widen s.cfg.mxlen s.xlen (((s.customTouched e).customRegs e.regs).epcMasked (e.target.getD (s.pc + 4)))) := rfl

/-- The writes of a custom instruction are made with the privilege of the current mode. -/
theorem WriteClaim.customTouched {s : State} {P : State → Prop} (h : WriteClaim s.priv.code.toNat P) (hs : P s)
    (e : CustomEffect) : P (s.customTouched e) := by
  have acted := h.congr (State.unitSteps_onlyCounted _ e.units) (h.congr (s.countRetired_onlyCounted none) hs)
  refine h.congr (State.unitSteps_onlyCounted _ _) (State.customCsrWrites_keep P _ _ acted fun t n v mem ht => ?_)
  obtain ⟨a, named, allowed⟩ := s.customCsrs_mem e n v mem
  exact h.csrWrite (State.level_of_csrAllowed named allowed) t v ht

/-! ### What U-mode leaves alone -/

/-- The machine-level registers are unchanged but for `FS`, `VS` and `mip.LCOFIP`, and PMP is. -/
structure SameMachine (s t : State) : Prop where
  rnmi_eq : t.rnmi = s.rnmi
  pmp_eq : t.pmp = s.pmp
  machine_eq : t.csr.machinePart = s.csr.machinePart

theorem SameMachine.refl (s : State) : SameMachine s s := ⟨rfl, rfl, rfl⟩

theorem SameMachine.trans {s t u : State} (h : SameMachine s t) (k : SameMachine t u) : SameMachine s u :=
  ⟨k.rnmi_eq.trans h.rnmi_eq, k.pmp_eq.trans h.pmp_eq, k.machine_eq.trans h.machine_eq⟩

theorem OnlyCounted.sameMachine {s t : State} (h : OnlyCounted s t) : SameMachine s t := ⟨h.rnmi_eq, h.pmp_eq, h.machine_eq⟩

theorem sameMachine_of_eq {s t : State} (hr : t.rnmi = s.rnmi) (hp : t.pmp = s.pmp) (hc : t.csr = s.csr) : SameMachine s t :=
  ⟨hr, hp, congrArg Csrs.machinePart hc⟩

/-- The registers that U-mode can address hold no machine-level state but `FS` and `VS`. -/
theorem State.csrWrite_sameMachine {n : CsrName} (h : n.level ≤ 0) (s : State) (w : Word) :
    SameMachine s (s.csrWrite w n) := by
  cases n
  case custom a => exact sameMachine_of_eq (by simp [State.csrWrite]) (by simp [State.csrWrite]) (by simp [State.csrWrite])
  case shadow | seed | fflags | frm | fcsr | vstart | vxsat | vxrm | vcsr | vl | vtype | vlenb =>
    exact ⟨rfl, rfl, rfl⟩
  all_goals exact absurd h (by simp [CsrName.level])

theorem writeClaim_sameMachine (s : State) : WriteClaim 0 (SameMachine s) where
  congr counted h := h.trans counted.sameMachine
  csrWrite level t w h := h.trans (State.csrWrite_sameMachine level t w)

theorem State.csrPerform_sameMachine (s : State) (u : CsrUse) {n : CsrName} (h : n.level ≤ 0) :
    SameMachine s (s.csrPerform u n) := by
  refine ((writeClaim_sameMachine s).csrTouched (SameMachine.refl s) u h).trans (sameMachine_of_eq ?_ ?_ (s.csrPerform_csr u n))
  · rw [State.csrPerform_eq]; split <;> simp
  · rw [State.csrPerform_eq]; split <;> simp

theorem State.customRetire_sameMachine {s : State} (mode : s.priv = .u) (e : CustomEffect) :
    SameMachine s (s.customRetire e) := by
  have claim : WriteClaim s.priv.code.toNat (SameMachine s) := by rw [mode]; exact writeClaim_sameMachine s
  rw [State.customRetire_eq]
  exact (claim.customTouched (SameMachine.refl s) e).trans (sameMachine_of_eq (by simp) (by simp) (by simp))

theorem State.countIdle_sameMachine (s : State) : SameMachine s s.countIdle := by
  obtain ⟨n, l, e⟩ := s.countIdle_cases
  rw [e]
  exact ⟨rfl, rfl, rfl⟩

theorem State.countTrapped_sameMachine (s : State) : SameMachine s s.countTrapped := by
  obtain ⟨n, l, e⟩ := s.countTrapped_cases
  rw [e]
  exact ⟨rfl, rfl, rfl⟩

theorem State.retire_sameMachine (s : State) (n : Nat) : SameMachine s (s.retire n) :=
  (s.countRetired_onlyCounted none).sameMachine.trans ⟨rfl, rfl, rfl⟩

theorem State.physWriteAll_sameMachine (s : State) (cs : List (Nat × Byte)) : SameMachine s (s.physWriteAll cs) :=
  sameMachine_of_eq (by simp) (by simp) (by simp)

/-! ### Traps: none stays in U-mode but in the critical-error state (R480, R481, R493) -/

theorem TrapCase.sameMachine_of_u {s t : State} (h : TrapCase s t) (stays : t.priv = .u) : SameMachine s t := by
  cases h with
  | critical _ e => subst e; exact ⟨rfl, rfl, rfl⟩
  | rnmi _ _ _ e => subst e; cases stays
  | intoM _ _ _ _ e => subst e; cases stays
  | intoS _ _ _ e => subst e; cases stays

theorem State.raise_sameMachine_of_u {s : State} {c : Nat} {v : Word} (stays : (s.raise c v).priv = .u) :
    SameMachine s (s.raise c v) := by
  rcases s.raise_cases c v with e | e
  · rw [e]; exact ⟨rfl, rfl, rfl⟩
  · rw [e] at stays ⊢
    exact s.countTrapped_sameMachine.trans ((State.deliver_cases _ _ _ _ _).1.sameMachine_of_u stays)

theorem State.takeInterrupt_sameMachine_of_u {s : State} {toS : Bool} {i : Nat} (stays : (s.takeInterrupt toS i).priv = .u) :
    SameMachine s (s.takeInterrupt toS i) := by
  unfold State.takeInterrupt at stays ⊢
  split_ifs at stays ⊢
  · exact ⟨rfl, rfl, rfl⟩
  · exact s.countIdle_sameMachine.trans ((State.deliver_cases _ _ _ _ _).1.sameMachine_of_u stays)

theorem State.takeNmi_sameMachine_of_u {s : State} (stays : s.takeNmi.priv = .u) : SameMachine s s.takeNmi := by
  unfold State.takeNmi at stays ⊢
  split_ifs at stays ⊢
  · cases stays
  · exact ⟨rfl, rfl, rfl⟩
  · cases stays

theorem State.idle_sameMachine_of_u {s : State} (stays : s.idle.priv = .u) : SameMachine s s.idle := by
  unfold State.idle at stays ⊢
  split at stays
  · exact s.countIdle_sameMachine
  · have raised := State.raise_sameMachine_of_u stays
    exact ⟨raised.rnmi_eq, raised.pmp_eq, raised.machine_eq⟩
  · exact s.countIdle_sameMachine.trans ⟨rfl, rfl, rfl⟩

/-! ### Instructions and steps -/

theorem ExecCase.sameMachine_of_u {s t : State} (h : ExecCase s t) (mode : s.priv = .u) (stays : t.priv = .u) :
    SameMachine s t := by
  cases h with
  | raised c v e => subst e; exact State.raise_sameMachine_of_u stays
  | csr u n named allowed e =>
    subst e
    have level := State.level_of_csrAllowed named allowed
    rw [mode] at level
    exact s.csrPerform_sameMachine u level
  | mret machine _ => rw [mode] at machine; cases machine
  | sret _ legal _ => simp [State.sretIllegal, mode] at legal
  | mnret machine _ _ => rw [mode] at machine; cases machine
  | retired e => subst e; exact s.retire_sameMachine 4
  | waiting w e => subst e; exact (s.retire_sameMachine 4).trans ⟨rfl, rfl, rfl⟩
  | limited w e => subst e; exact s.countIdle_sameMachine.trans ⟨rfl, rfl, rfl⟩
  | customRaised cs c v e =>
    subst e
    exact (s.physWriteAll_sameMachine cs).trans (State.raise_sameMachine_of_u stays)
  | customRetired cs f e =>
    subst e
    exact (s.physWriteAll_sameMachine cs).trans (State.customRetire_sameMachine ((s.physWriteAll_priv cs).trans mode) f)

theorem baseEffect.sameMachine_of_u {s t : State} (h : baseEffect s t) (stays : t.priv = .u) : SameMachine s t := by
  obtain ⟨cs, ⟨c, v, rfl⟩ | ⟨r, v, a, u, rfl, ht, -⟩⟩ := h
  · exact (s.physWriteAll_sameMachine cs).trans (State.raise_sameMachine_of_u stays)
  · have retired := (s.physWriteAll_sameMachine cs).trans (State.countRetired_onlyCounted _ none).sameMachine
    rcases ht with rfl | rfl <;> exact retired.trans (sameMachine_of_eq (by simp) (by simp) (by simp))

/-- The hart's part of a step within U-mode. -/
theorem StepCase.sameMachine_of_u {s t : State} {p : PlatIn} (h : StepCase s p t) (mode : s.priv = .u)
    (stays : t.priv = .u) : SameMachine s t := by
  have awake {u : State} (hu : u = s ∨ u = s.setWait .running) : u.priv = .u ∧ (SameMachine u t → SameMachine s t) := by
    rcases hu with rfl | rfl
    · exact ⟨mode, id⟩
    · exact ⟨mode, fun same => ⟨same.rnmi_eq, same.pmp_eq, same.machine_eq⟩⟩
  cases h with
  | reset c _ e => subst e; cases stays
  | critical _ e => subst e; exact ⟨rfl, rfl, rfl⟩
  | nmi _ e => subst e; exact State.takeNmi_sameMachine_of_u stays
  | idle _ e => subst e; exact State.idle_sameMachine_of_u stays
  | complete _ e => subst e; exact (s.retire_sameMachine 4).trans ⟨rfl, rfl, rfl⟩
  | interrupt u hu toS i _ e => subst e; exact (awake hu).2 (State.takeInterrupt_sameMachine_of_u stays)
  | exception u hu c v e => subst e; exact (awake hu).2 (State.raise_sameMachine_of_u stays)
  | instruction u hu i hi => exact (awake hu).2 ((exec_cases i u t hi).sameMachine_of_u (awake hu).1 stays)
  | base u hu w hw => exact (awake hu).2 ((u.baseExec_next t w hw).sameMachine_of_u stays)

/-! ### The platform's part of a step (11_state_trap_csrs.md R118, R120) -/

/-- `SSIP` and the writable platform bits of `mip` change only on a request. -/
theorem State.sampled_requests (s : State) (p : PlatIn) :
    (p.ssiSet = false → (s.sampled p).csr.ssip = s.csr.ssip) ∧
      (p.irqSet = 0 → (s.sampled p).csr.platSw = s.csr.platSw) := by
  have moved : ((s.platformMoves p).synchronised p).csr = s.csr := by
    unfold State.synchronised State.platformMoves
    split <;> simp
  simp only [State.sampled, State.setCtr_csr, State.setInputs_csr, State.requested]
  split
  · simp [moved]
  · refine ⟨fun none => ?_, fun none => ?_⟩ <;> simp [moved, none]

/-- What the stated isolation says of the machine-level registers, of their common part. -/
theorem SameMachine.registers {s t : State} (h : SameMachine s t) :
    t.csr = { s.csr with
      mstatus := { s.csr.mstatus with fs := t.csr.mstatus.fs, vs := t.csr.mstatus.vs }, lcofip := t.csr.lcofip } :=
  congrArg (fun c : Csrs => { c with
    mstatus := { c.mstatus with fs := t.csr.mstatus.fs, vs := t.csr.mstatus.vs }, lcofip := t.csr.lcofip }) h.machine_eq

/-- Settles O58: in U-mode no trap stays, no return is legal and no machine-level register has an address, so that only
the platform's requests reach one. -/
theorem userModeCannotChangeMachineState : Obligations.UserModeCannotChangeMachineState := by
  intro s t mode steps stays
  have same := (step_cases s t steps).sameMachine_of_u ((s.sampled_priv s.input).trans mode) stays
  obtain ⟨ssip, platSw⟩ := s.sampled_requests s.input
  obtain ⟨b, m, sampled⟩ := s.sampled_csr s.input
  have registers := same.registers
  rw [sampled] at registers ssip platSw
  unfold sameMachineState
  rw [registers, same.rnmi_eq, same.pmp_eq, State.sampled_rnmi, State.sampled_pmp]
  exact ⟨rfl, rfl, rfl, platSw, ssip, rfl, rfl, rfl, rfl, rfl, rfl, rfl, rfl, rfl, rfl, rfl, rfl, rfl, rfl, rfl⟩

end Sys2Proof.Machine

/-! SUPPORT. The invariant of every step (60_exceptions.md R520): memory stays canonical, the mode is implemented, `MDT` excludes
`MIE` and the modes below M, and `pc` is aligned. -/

namespace Sys2Proof.Machine

/-! ### Alignment (10_state.md R22, 11_state_trap_csrs.md R101, R103) -/

theorem getLsbD_setWidth_two (a : Word) {i : Nat} (h : i < 2) : (a.setWidth 2).getLsbD i = a.getLsbD i := by
  simp [h]

/-- Alignment looks at the two low bits. -/
theorem State.aligned_congr_low (s : State) {a b : Word} (h : a.setWidth 2 = b.setWidth 2) : s.aligned a = s.aligned b := by
  have low (i : Nat) (hi : i < 2) : a.getLsbD i = b.getLsbD i := by
    rw [← getLsbD_setWidth_two a hi, h, getLsbD_setWidth_two b hi]
  simp only [State.aligned, low 0 (by omega), low 1 (by omega)]

theorem State.aligned_zero (s : State) : s.aligned 0 = true := by simp [State.aligned]

theorem State.aligned_of_low_zero (s : State) {a : Word} (h : a.setWidth 2 = 0#2) : s.aligned a = true :=
  (s.aligned_congr_low (b := 0) h).trans s.aligned_zero

/-- The next instruction of four bytes is aligned just where this one is. -/
theorem State.aligned_add_four (s : State) (a : Word) : s.aligned (a + 4) = s.aligned a := by
  refine s.aligned_congr_low ?_
  rw [BitVec.setWidth_add _ _ (by omega)]
  exact BitVec.add_zero _

/-- With IALIGN=16 only bit 0 counts. -/
theorem State.aligned_add_two {s : State} {a : Word} (compressed : s.extC = true) (h : s.aligned a = true) :
    s.aligned (a + 2) = true := by
  have low : (a + 2).setWidth 1 = a.setWidth 1 := by
    rw [BitVec.setWidth_add _ _ (by omega)]
    exact BitVec.add_zero _
  have bit : (a + 2).getLsbD 0 = a.getLsbD 0 := by simpa using congrArg (BitVec.getLsbD · 0) low
  obtain ⟨even, -⟩ := (s.aligned_eq_true_iff a).1 h
  exact (s.aligned_eq_true_iff _).2 ⟨bit.trans even, fun off => absurd off (by simp [compressed])⟩

theorem State.aligned_narrow (s : State) (x : Xlen) (a : Word) : s.aligned (narrow x a) = s.aligned a :=
  s.aligned_congr_low (setWidth_narrow (by omega) x a)

theorem setWidth_two_base (v : Word) : (v &&& ~~~3#64).setWidth 2 = 0#2 := by
  rw [BitVec.setWidth_and]
  exact BitVec.and_zero

/-- Every trap target is 4-byte aligned. -/
theorem trapTarget_low (x : Xlen) (tvec : Word) (isInt : Bool) (code : Nat) :
    (trapTarget x tvec isInt code).setWidth 2 = 0#2 := by
  have entry : (BitVec.ofNat 64 (4 * code)).setWidth 2 = 0#2 := by
    apply BitVec.eq_of_toNat_eq
    simp only [BitVec.toNat_setWidth, BitVec.toNat_ofNat]
    omega
  simp only [trapTarget]
  split
  · rw [setWidth_narrow (by omega), BitVec.setWidth_add _ _ (by omega), setWidth_two_base, entry]
    rfl
  · exact setWidth_two_base tvec

theorem setWidth_two_of_pairAt {v : Word} (h : pairAt v 0 = 0) : v.setWidth 2 = 0#2 := by
  have low : pairAt v 0 = v.setWidth 2 := BitVec.eq_of_toNat_eq (by simp [pairAt])
  exact low.symm.trans h

theorem vectorsAligned_iff (c : Cfg) : vectorsAligned c = true ↔
    pairAt c.resetVector 0 = 0 ∧ pairAt c.nmiVector 0 = 0 ∧ pairAt c.rnmiVector 0 = 0 := by
  simp [vectorsAligned, and_assoc]

/-! ### `MDT` against `MIE` and the modes below M (10_state.md R72, R492) -/

/-- The fields that the rule on `MDT` is about. -/
def Mstatus.mdtPart (m : Mstatus) : Bool × Bool := (m.mdt, m.mie)

/-- In the mode, `MDT` set means that `MIE` is clear, and below M-mode `MDT` is clear. -/
structure MdtRule (m : Mstatus) (y : Priv) : Prop where
  mie_clear : m.mdt = true → m.mie = false
  mdt_clear : y ≠ .m → m.mdt = false

theorem MdtRule.congr {m m' : Mstatus} {y : Priv} (h : MdtRule m y) (same : m'.mdtPart = m.mdtPart) : MdtRule m' y := by
  have mdt : m'.mdt = m.mdt := congrArg Prod.fst same
  have mie : m'.mie = m.mie := congrArg Prod.snd same
  exact ⟨fun h' => mie.trans (h.mie_clear (mdt ▸ h')), fun below => mdt.trans (h.mdt_clear below)⟩

theorem mdtRule_of_mdt {m : Mstatus} (h : m.mdt = false) (y : Priv) : MdtRule m y := ⟨by simp [h], fun _ => h⟩

theorem mdtRule_m_of_mie {m : Mstatus} (h : m.mie = false) : MdtRule m .m := ⟨fun _ => h, fun below => absurd rfl below⟩

theorem MdtRule.toM {m : Mstatus} {y : Priv} (h : MdtRule m y) : MdtRule m .m := ⟨h.mie_clear, fun below => absurd rfl below⟩

/-! ### The invariant, clause by clause -/

theorem State.hasU_congr {s t : State} (hc : t.cfg = s.cfg) (hm : t.csr.misa = s.csr.misa) : t.hasU = s.hasU := by
  simp only [State.hasU, State.letter, hc, hm]

theorem State.modeExists_congr {s t : State} (hc : t.cfg = s.cfg) (hm : t.csr.misa = s.csr.misa) (y : Priv) :
    t.modeExists y = s.modeExists y := by
  cases y with
  | m => rfl
  | s => exact State.hasS_congr hc hm
  | u => exact State.hasU_congr hc hm

/-- The clauses of the invariant. -/
structure State.Sound (s : State) : Prop where
  memory : Memory.wf s.mem = true
  mode : s.modeExists s.priv = true
  mdt : s.cfg.ext.smdbltrp = true → MdtRule s.csr.mstatus s.priv
  pc : s.aligned s.pc = true
  vectors : vectorsAligned s.cfg = true

theorem State.mdtOk_iff (s : State) :
    s.mdtOk = true ↔ (s.cfg.ext.smdbltrp = true → MdtRule s.csr.mstatus s.priv) := by
  have rule : MdtRule s.csr.mstatus s.priv ↔
      (s.csr.mstatus.mdt = true → s.csr.mstatus.mie = false) ∧ (s.priv ≠ .m → s.csr.mstatus.mdt = false) :=
    ⟨fun h => ⟨h.mie_clear, h.mdt_clear⟩, fun h => ⟨h.1, h.2⟩⟩
  rw [rule]
  simp only [State.mdtOk, Bool.or_eq_true, Bool.and_eq_true, Bool.not_eq_true', beq_iff_eq]
  cases s.cfg.ext.smdbltrp <;> cases s.csr.mstatus.mdt <;> simp

theorem State.invariant_iff (s : State) : s.invariant = true ↔ s.Sound := by
  simp only [State.invariant, Bool.and_eq_true, State.mdtOk_iff]
  exact ⟨fun ⟨⟨⟨⟨memory, mode⟩, mdt⟩, pc⟩, vectors⟩ => { memory, mode, mdt, pc, vectors },
    fun h => ⟨⟨⟨⟨h.memory, h.mode⟩, h.mdt⟩, h.pc⟩, h.vectors⟩⟩

/-- What a state that keeps the configuration and `misa` has to show. -/
theorem State.Sound.update {s t : State} (hs : s.Sound) (cfg : t.cfg = s.cfg) (misa : t.csr.misa = s.csr.misa)
    (memory : Memory.wf t.mem = true) (mode : s.modeExists t.priv = true)
    (mdt : s.cfg.ext.smdbltrp = true → MdtRule t.csr.mstatus t.priv) (pc : t.aligned t.pc = true) : t.Sound where
  memory := memory
  mode := (State.modeExists_congr cfg misa _).trans mode
  mdt := fun present => mdt (cfg ▸ present)
  pc := pc
  vectors := cfg ▸ hs.vectors

/-- Nothing that the invariant is about changed, memory apart. -/
theorem State.Sound.congr {s t : State} (hs : s.Sound) (cfg : t.cfg = s.cfg) (priv : t.priv = s.priv) (pc : t.pc = s.pc)
    (misa : t.csr.misa = s.csr.misa) (mstatus : t.csr.mstatus = s.csr.mstatus) (memory : Memory.wf t.mem = true) : t.Sound :=
  hs.update cfg misa memory (priv ▸ hs.mode) (fun present => by rw [mstatus, priv]; exact hs.mdt present)
    (by rw [State.aligned_congr cfg misa, pc]; exact hs.pc)

/-- A hart that may rise to a mode has the mode. -/
theorem privRises.modeExists {s t : State} (h : privRises s t) (mode : s.modeExists s.priv = true) :
    s.modeExists t.priv = true := by
  rcases h with same | top | ⟨sup, present, -⟩
  · rw [same]; exact mode
  · rw [top]; rfl
  · rw [sup]; exact present

/-! ### Counting and the platform's part of a step -/

theorem State.Sound.countTrapped {s : State} (hs : s.Sound) : s.countTrapped.Sound :=
  hs.congr (by simp) (by simp) (by simp) (by simp) (by simp) (by simpa using hs.memory)

theorem State.Sound.countIdle {s : State} (hs : s.Sound) : s.countIdle.Sound :=
  hs.congr (by simp) (by simp) (by simp) (by simp) (by simp) (by simpa using hs.memory)

theorem State.Sound.setWait {s : State} (hs : s.Sound) (w : Wait) : (s.setWait w).Sound :=
  hs.congr rfl rfl rfl rfl rfl hs.memory

theorem State.Sound.physWriteAll {s : State} (hs : s.Sound) (cs : List (Nat × Byte)) : (s.physWriteAll cs).Sound :=
  hs.congr (by simp) (by simp) (by simp) (by simp) (by simp) (s.physWriteAll_wf cs hs.memory)

theorem State.Sound.sampled {s : State} (hs : s.Sound) (p : PlatIn) : (s.sampled p).Sound := by
  obtain ⟨b, m, e⟩ := s.sampled_csr p
  exact hs.congr (by simp) (by simp) (by simp) (by rw [e]) (by rw [e]) (s.sampled_wf p hs.memory)

theorem State.Sound.retire {s : State} (hs : s.Sound) : (s.retire 4).Sound := by
  have misa : (s.retire 4).csr.misa = s.csr.misa := by simp [State.retire]
  have mstatus : (s.retire 4).csr.mstatus = s.csr.mstatus := by simp [State.retire]
  have pc : (s.retire 4).pc = widen s.cfg.mxlen s.xlen (s.pc + 4) := by simp [State.retire]
  refine hs.update (by simp) misa (by simpa using hs.memory) (by simpa using hs.mode)
    (fun present => by rw [mstatus, State.retire_priv]; exact hs.mdt present) ?_
  rw [State.aligned_congr (s.retire_cfg 4) misa, pc, State.aligned_widen, State.aligned_add_four]
  exact hs.pc

/-! ### Traps (R480, R481, R492, R500) -/

/-- The entry of the RNMI handler, wherever it comes from. -/
theorem State.Sound.enterRnmi {s : State} (hs : s.Sound) (y : Priv) (cause : Word) : (s.enterRnmi y cause).Sound := by
  obtain ⟨-, -, vector⟩ := (vectorsAligned_iff s.cfg).1 hs.vectors
  exact hs.update rfl rfl hs.memory rfl (fun present => (hs.mdt present).toM)
    ((State.aligned_narrow _ _ _).trans (State.aligned_of_low_zero _ (setWidth_two_of_pairAt vector)))

theorem State.Sound.enterNmi {s : State} (hs : s.Sound) : s.enterNmi.Sound := by
  obtain ⟨-, vector, -⟩ := (vectorsAligned_iff s.cfg).1 hs.vectors
  exact hs.update rfl rfl hs.memory rfl (fun _ => mdtRule_m_of_mie rfl)
    ((State.aligned_narrow _ _ _).trans (State.aligned_of_low_zero _ (setWidth_two_of_pairAt vector)))

theorem TrapCase.sound {s t : State} (h : TrapCase s t) (rises : privRises s t) (hs : s.Sound) : t.Sound := by
  have mode := rises.modeExists hs.mode
  cases h with
  | critical _ e => subst e; exact hs.congr rfl rfl rfl rfl rfl hs.memory
  | rnmi _ _ c e =>
    subst e
    exact hs.enterRnmi .m c
  | intoM _ i c v e =>
    subst e
    exact hs.update rfl rfl hs.memory mode (fun _ => mdtRule_m_of_mie rfl)
      (State.aligned_of_low_zero _ (trapTarget_low _ _ _ _))
  | intoS i c v e =>
    subst e
    have below : s.priv ≠ .m := by
      rcases rises with same | top | ⟨-, -, below⟩
      · exact fun m => nomatch same.trans m
      · cases top
      · exact below
    refine hs.update rfl rfl hs.memory mode
      (fun present => (mdtRule_of_mdt ((hs.mdt present).mdt_clear below) _).congr rfl) ?_
    exact (State.aligned_widen _ _ _ _).trans (State.aligned_of_low_zero _ (trapTarget_low _ _ _ _))

theorem State.Sound.raise {s : State} (hs : s.Sound) (c : Nat) (v : Word) : (s.raise c v).Sound := by
  have rises := (s.raise_privRises c v).of_unchanged (s := s.countTrapped) (by simp) (by simp) (by simp)
  rcases s.raise_cases c v with e | e
  · rw [e]; exact hs.congr rfl rfl rfl rfl rfl hs.memory
  · rw [e] at rises ⊢
    exact (State.deliver_cases _ _ _ _ _).1.sound rises hs.countTrapped

theorem State.Sound.takeInterrupt {s : State} (hs : s.Sound) {toS : Bool} {i : Nat}
    (pending : s.pendingInterrupt = some (toS, i)) : (s.takeInterrupt toS i).Sound := by
  have rises := (State.takeInterrupt_privRises pending).of_unchanged (s := s.countIdle) (by simp) (by simp) (by simp)
  unfold State.takeInterrupt at rises ⊢
  split_ifs at rises ⊢
  · exact hs.congr rfl rfl rfl rfl rfl hs.memory
  · exact (State.deliver_cases _ _ _ _ _).1.sound rises hs.countIdle

theorem State.Sound.takeNmi {s : State} (hs : s.Sound) : s.takeNmi.Sound := by
  unfold State.takeNmi
  split_ifs
  · exact hs.countIdle.enterRnmi _ _
  · exact hs.congr rfl rfl rfl rfl rfl hs.memory
  · exact hs.countIdle.enterNmi

theorem State.Sound.idle {s : State} (hs : s.Sound) : s.idle.Sound := by
  unfold State.idle
  split
  · exact hs.countIdle
  · exact State.Sound.raise (hs.setWait .running) _ _
  · exact hs.countIdle.setWait _

/-! ### Returns (42_trap_return.md R411, R413, R417) -/

/-- A return to an implemented mode that clears `MDT` as R411 asks. -/
theorem returned.sound {s t : State} {y : Priv} {v : Word} (h : returned s t y (s.epcMasked v)) (hs : s.Sound)
    (mode : s.modeExists y = true) (mdt : s.cfg.ext.smdbltrp = true → MdtRule t.csr.mstatus y) : t.Sound := by
  obtain ⟨aligned, -, -⟩ := h.aligned_and_keeps_causes
  obtain ⟨rfl, -, -, -, -, -, -, -, ⟨cfg, -, -, -, -, -, -, mem⟩, -, ⟨misa, -⟩, -⟩ := h
  exact hs.update cfg misa (mem ▸ hs.memory) mode mdt aligned

theorem State.mppSeen_modeExists (s : State) : s.modeExists s.mppSeen = true := by
  unfold State.mppSeen
  split
  · assumption
  · rfl

theorem State.Sound.returnM {s : State} (hs : s.Sound) : s.returnM.Sound :=
  s.returnM_returned.sound hs s.mppSeen_modeExists fun present => mdtRule_of_mdt (by simp [State.returnM, present]) _

theorem State.Sound.returnS {s : State} (hs : s.Sound) (present : s.hasS = true) : s.returnS.Sound := by
  have user : s.hasU = true := (Bool.and_eq_true_iff.1 present).2
  refine s.returnS_returned.sound hs ?_ fun smdbltrp => mdtRule_of_mdt ?_ _
  · split
    · exact present
    · exact user
  · by_cases mode : s.priv = .m
    · simp [State.returnS, smdbltrp, mode]
    · simp [State.returnS, mode, (hs.mdt smdbltrp).mdt_clear mode]

theorem State.Sound.returnRnmi {s : State} (hs : s.Sound) : s.returnRnmi.Sound := by
  refine s.returnRnmi_returned.sound hs ?_ fun smdbltrp => ?_
  · split
    · assumption
    · rfl
  · generalize target : (if s.modeExists s.rnmi.mnpp then s.rnmi.mnpp else Priv.m) = y
    by_cases mode : y = .m
    · have kept : s.returnRnmi.csr.mstatus.mdtPart = s.csr.mstatus.mdtPart := by
        simp [State.returnRnmi, Mstatus.mdtPart, target, mode]
      exact mode ▸ (hs.mdt smdbltrp).toM.congr kept
    · exact mdtRule_of_mdt (by simp [State.returnRnmi, target, mode, smdbltrp]) y

/-! ### Writes of the status register (10_state.md R72, R76) -/

/-- A write of `mstatus` keeps the rule on `MDT` where only M-mode reaches `MDT`. -/
theorem State.statusWrite_mdtRule {s : State} {y : Priv} (present : s.cfg.ext.smdbltrp = true)
    (h : MdtRule s.csr.mstatus y) (mask w : Word) (reach : mask.getLsbD 42 = true → y = .m) :
    MdtRule (s.statusWrite mask w) y := by
  have mdt := s.statusWrite_mdt mask w present
  refine ⟨fun set => ?_, fun below => ?_⟩
  · by_cases reached : (mask.getLsbD 3 || mask.getLsbD 42) = true
    · simp [s.statusWrite_mie mask w reached, set]
    · obtain ⟨-, out⟩ : mask.getLsbD 3 = false ∧ mask.getLsbD 42 = false := by simpa using reached
      have mie : (s.statusWrite mask w).mie = s.csr.mstatus.mie := if_neg reached
      rw [mdt, out] at set
      exact mie.trans (h.mie_clear set)
  · have out : mask.getLsbD 42 = false := by simpa using mt reach below
    rw [mdt, out]
    exact h.mdt_clear below

/-- Enabling an extension again leaves `MIE` and `MDT` alone (10_state.md R39). -/
theorem State.setMisa_mdtPart (s : State) (v : BitVec 26) :
    (s.setMisa v).csr.mstatus.mdtPart = s.csr.mstatus.mdtPart := by
  have f (q : State) : (q.againF v).csr.mstatus.mdtPart = q.csr.mstatus.mdtPart := by unfold State.againF; split <;> rfl
  have su (q : State) : (q.againS v).csr.mstatus.mdtPart = q.csr.mstatus.mdtPart := by unfold State.againS; split <;> rfl
  have us (q : State) : (q.againU v).csr.mstatus.mdtPart = q.csr.mstatus.mdtPart := by unfold State.againU; split <;> rfl
  have ve (q : State) : (q.againV v).csr.mstatus.mdtPart = q.csr.mstatus.mdtPart := by unfold State.againV; split <;> rfl
  simp [State.setMisa, f, su, us, ve]

/-- A CSR write changes `MIE` and `MDT` only as a write of the status register, of whose names all but `sstatus`, which does not
reach `MDT`, are machine-level ones. -/
theorem State.csrWrite_mdtPart (s : State) (w : Word) (n : CsrName) :
    (∃ mask v, (s.csrWrite w n).csr.mstatus = s.statusWrite mask v ∧ (mask.getLsbD 42 = true → n.level = 3)) ∨
      (s.csrWrite w n).csr.mstatus.mdtPart = s.csr.mstatus.mdtPart := by
  cases n
  case mstatus => exact .inl ⟨_, _, rfl, fun _ => rfl⟩
  case mstatush => exact .inl ⟨_, _, rfl, fun _ => rfl⟩
  case sstatus =>
    have out : (narrow s.sxlen sstatusMask).getLsbD 42 = false := by cases s.sxlen <;> decide
    exact .inl ⟨_, _, rfl, fun reached => absurd (out.symm.trans reached) Bool.false_ne_true⟩
  case misa =>
    simp only [State.csrWrite, State.writeMisa]
    split
    · exact .inr rfl
    · exact .inr (s.setMisa_mdtPart _)
  case mhpmevent k high =>
    simp only [State.csrWrite, State.writeHpmevent]
    right
    repeat' split
    all_goals rfl
  case mtval => simp only [State.csrWrite]; right; split <;> rfl
  case satp => simp only [State.csrWrite]; right; split <;> rfl
  all_goals
    right
    simp [State.csrWrite, State.pmpcfgWrite, State.writeMipBits, State.writeF, State.writeV, State.setMstatus,
      Mstatus.mdtPart]

/-- A register of level 3 is reached from M-mode alone. -/
theorem eq_m_of_level {y : Priv} (h : 3 ≤ y.code.toNat) : y = .m := by
  cases y with
  | m => rfl
  | u | s => simp [Priv.code] at h

theorem State.csrWrite_mdtRule {s : State} {n : CsrName} {y : Priv} (privileged : n.level ≤ y.code.toNat)
    (present : s.cfg.ext.smdbltrp = true) (h : MdtRule s.csr.mstatus y) (w : Word) :
    MdtRule (s.csrWrite w n).csr.mstatus y := by
  rcases s.csrWrite_mdtPart w n with ⟨mask, v, written, reach⟩ | same
  · rw [written]
    exact State.statusWrite_mdtRule present h mask v fun reached => eq_m_of_level (reach reached ▸ privileged)
  · exact h.congr same

/-! ### Writes of `misa` (10_state.md R38) -/

/-- A CSR write changes `misa` only where it is addressed. -/
theorem State.csrWrite_misa (s : State) (w : Word) {n : CsrName} (h : n ≠ .misa) :
    (s.csrWrite w n).csr.misa = s.csr.misa := by
  cases n
  case misa => exact absurd rfl h
  case mhpmevent k high =>
    simp only [State.csrWrite, State.writeHpmevent]
    repeat' split
    all_goals rfl
  case mtval => simp only [State.csrWrite]; split <;> rfl
  case satp => simp only [State.csrWrite]; split <;> rfl
  all_goals simp [State.csrWrite, State.pmpcfgWrite, State.writeMipBits, State.writeF, State.writeV, State.setMstatus]

/-- The suppression of R38: no write of `misa` leaves the next instruction unaligned. -/
theorem State.writeMisa_aligned {s : State} (w : Word) (h : s.aligned (s.pc + 4) = true) :
    (s.writeMisa w).aligned (s.pc + 4) = true := by
  unfold State.writeMisa
  split
  · exact h
  · rename_i written
    obtain ⟨even, word⟩ := (s.aligned_eq_true_iff _).1 h
    obtain ⟨impl, kept⟩ : s.cfg.misaImpl = true ∧ s.misaSuppressed (s.legalizeMisa (w.setWidth 26)) = false := by
      simpa using written
    generalize s.legalizeMisa (w.setWidth 26) = v at kept
    refine (State.aligned_eq_true_iff _ _).2 ⟨even, fun off => ?_⟩
    have cleared : v.getLsbD 2 = false := by simpa [State.extC, State.letter, impl] using off
    cases compressed : s.extC with
    | false => exact word compressed
    | true => simpa only [State.misaSuppressed, compressed, cleared, Bool.not_false, Bool.true_and] using kept

/-! ### CSR instructions and custom instructions -/

/-- What the invariant needs of the state in which an instruction of mode y at address a has written its CSRs. -/
structure ReadyForNext (y : Priv) (a : Word) (q : State) : Prop where
  priv_eq : q.priv = y
  pc_eq : q.pc = a
  next : q.aligned (a + 4) = true
  mode : q.modeExists y = true
  mdt : q.cfg.ext.smdbltrp = true → MdtRule q.csr.mstatus y

theorem State.Sound.readyForNext {s : State} (hs : s.Sound) : ReadyForNext s.priv s.pc s where
  priv_eq := rfl
  pc_eq := rfl
  next := (s.aligned_add_four s.pc).trans hs.pc
  mode := hs.mode
  mdt := hs.mdt

theorem ReadyForNext.congr {y : Priv} {a : Word} {q r : State} (h : ReadyForNext y a q) (counted : OnlyCounted q r) :
    ReadyForNext y a r where
  priv_eq := counted.priv_eq.trans h.priv_eq
  pc_eq := counted.pc_eq.trans h.pc_eq
  next := (State.aligned_congr counted.cfg_eq (congrArg Csrs.misa counted.machine_eq :) _).trans h.next
  mode := (State.modeExists_congr counted.cfg_eq (congrArg Csrs.misa counted.machine_eq :) _).trans h.mode
  mdt present := (h.mdt (counted.cfg_eq ▸ present)).congr (congrArg (·.mstatus.mdtPart) counted.machine_eq :)

/-- `misa` is written in M-mode alone, which every hart has. -/
theorem ReadyForNext.csrWrite {y : Priv} {a : Word} {q : State} (h : ReadyForNext y a q) {n : CsrName}
    (privileged : n.level ≤ y.code.toNat) (w : Word) : ReadyForNext y a (q.csrWrite w n) where
  priv_eq := (q.csrWrite_priv w n).trans h.priv_eq
  pc_eq := (q.csrWrite_pc w n).trans h.pc_eq
  mdt present := State.csrWrite_mdtRule privileged (by simpa using present) (h.mdt (by simpa using present)) w
  next := by
    by_cases misa : n = .misa
    · subst misa
      have next := h.next
      rw [← h.pc_eq] at next ⊢
      exact State.writeMisa_aligned w next
    · exact (State.aligned_congr (q.csrWrite_cfg w n) (q.csrWrite_misa w misa) _).trans h.next
  mode := by
    by_cases misa : n = .misa
    · subst misa
      rw [eq_m_of_level privileged]
      rfl
    · exact (State.modeExists_congr (q.csrWrite_cfg w n) (q.csrWrite_misa w misa) _).trans h.mode

theorem writeClaim_readyForNext (y : Priv) (a : Word) : WriteClaim y.code.toNat (ReadyForNext y a) where
  congr counted h := h.congr counted
  csrWrite privileged _ w h := h.csrWrite privileged w

/-- An instruction that wrote CSRs, and then registers and `pc` alone. -/
theorem ReadyForNext.sound {s q t : State} (h : ReadyForNext s.priv s.pc q) (hs : s.Sound) (cfg : t.cfg = s.cfg)
    (same : t.cfg = q.cfg) (csr : t.csr = q.csr) (priv : t.priv = s.priv) (mem : t.mem = s.mem)
    (pc : t.aligned t.pc = true) : t.Sound where
  memory := mem ▸ hs.memory
  mode := by
    rw [priv, State.modeExists_congr same (congrArg Csrs.misa csr)]
    exact h.mode
  mdt present := by
    rw [csr, priv]
    exact h.mdt (same ▸ present)
  pc := pc
  vectors := cfg ▸ hs.vectors

theorem State.Sound.csrPerform {s : State} (hs : s.Sound) (u : CsrUse) {n : CsrName}
    (privileged : n.level ≤ s.priv.code.toNat) : (s.csrPerform u n).Sound := by
  have touched := (writeClaim_readyForNext s.priv s.pc).csrTouched hs.readyForNext u privileged
  refine touched.sound hs (by simp) (by simp) (by simp) (by simp) (by simp) ?_
  rw [State.aligned_congr (s := s.csrTouched u n) (by simp) (by simp), State.csrPerform_pc, State.aligned_widen]
  exact touched.next

theorem State.Sound.customRetire {s : State} (hs : s.Sound) (e : CustomEffect) : (s.customRetire e).Sound := by
  have touched := (writeClaim_readyForNext s.priv s.pc).customTouched hs.readyForNext e
  refine touched.sound hs (by simp) ?_ ?_ (by simp) (by simp) (s.customRetire_aligned e)
  · rw [State.customRetire_eq]; simp
  · rw [State.customRetire_eq]; simp

theorem ExecCase.sound {s t : State} (h : ExecCase s t) (hs : s.Sound) : t.Sound := by
  cases h with
  | raised c v e => subst e; exact State.Sound.raise hs c v
  | csr u n named allowed e => subst e; exact State.Sound.csrPerform hs u (State.level_of_csrAllowed named allowed)
  | mret _ e => subst e; exact State.Sound.returnM hs
  | sret present _ e => subst e; exact State.Sound.returnS hs present
  | mnret _ _ e => subst e; exact State.Sound.returnRnmi hs
  | retired e => subst e; exact hs.retire
  | waiting w e => subst e; exact hs.retire.setWait w
  | limited w e => subst e; exact hs.countIdle.setWait w
  | customRaised cs c v e => subst e; exact State.Sound.raise (hs.physWriteAll cs) c v
  | customRetired cs f e => subst e; exact State.Sound.customRetire (hs.physWriteAll cs) f

/-! ### Base instructions -/

theorem baseEffect.sound {s t : State} (h : baseEffect s t) (hs : s.Sound) : t.Sound := by
  obtain ⟨cs, ⟨c, v, rfl⟩ | ⟨r, v, a, u, rfl, ht, target⟩⟩ := h
  · exact State.Sound.raise (hs.physWriteAll cs) c v
  · have aligned : s.aligned a = true := by
      rcases target with rfl | aligned | ⟨compressed, rfl⟩
      · exact (s.aligned_add_four s.pc).trans hs.pc
      · exact aligned
      · exact State.aligned_add_two compressed hs.pc
    have jumped : ((((s.physWriteAll cs).countRetired none).writeX s.xlen r v).jump a).Sound := by
      refine hs.update (by simp) (by simp) (by simpa using s.physWriteAll_wf cs hs.memory) (by simpa using hs.mode)
        (fun present => by simpa using hs.mdt present) ?_
      rw [State.jump_pc, State.aligned_widen, State.aligned_congr (s := s) (by simp) (by simp)]
      exact aligned
    rcases ht with rfl | rfl
    · exact jumped
    · exact jumped.congr rfl rfl rfl rfl rfl jumped.memory

/-! ### The step (R510) -/

theorem State.Sound.restarted {s : State} (hs : s.Sound) (cause : Nat) : (s.restarted cause).Sound := by
  obtain ⟨vector, -, -⟩ := (vectorsAligned_iff s.cfg).1 hs.vectors
  exact { memory := hs.memory, mode := rfl, mdt := fun _ => mdtRule_m_of_mie rfl, vectors := hs.vectors,
          pc := State.aligned_of_low_zero _ (setWidth_two_of_pairAt vector) }

theorem StepCase.sound {s t : State} {p : PlatIn} (h : StepCase s p t) (hs : s.Sound) : t.Sound := by
  have awake {u : State} (hu : u = s ∨ u = s.setWait .running) : u.Sound := by
    rcases hu with rfl | rfl
    · exact hs
    · exact hs.setWait _
  cases h with
  | reset c _ e => subst e; exact State.Sound.restarted hs c
  | critical _ e => subst e; exact hs.congr rfl rfl rfl rfl rfl hs.memory
  | nmi _ e => subst e; exact State.Sound.takeNmi hs
  | idle _ e => subst e; exact State.Sound.idle hs
  | complete _ e => subst e; exact hs.retire.setWait _
  | interrupt u hu toS i pending e => subst e; exact State.Sound.takeInterrupt (awake hu) pending
  | exception u hu c v e => subst e; exact State.Sound.raise (awake hu) c v
  | instruction u hu i hi => exact (exec_cases i u t hi).sound (awake hu)
  | base u hu w hw => exact (u.baseExec_next t w hw).sound (awake hu)

/-- Settles O56: the platform's part of the step and each case of the hart's part keep every clause. -/
theorem stepKeepsInvariant : Obligations.StepKeepsInvariant := fun s t holds steps =>
  t.invariant_iff.2 ((step_cases s t steps).sound (((s.invariant_iff).1 holds).sampled s.input))

end Sys2Proof.Machine

/-! SUPPORT. Reset (70_reset_and_hazards.md R550, 12_state_config_pmp_mmio.md R240, R241): that it goes before everything else
in a step, what it leaves, and that the machine starts in the invariant. -/

namespace Sys2Proof.Machine

/-! ### The reset step (60_exceptions.md R510; log entry 27) -/

/-- A reset goes before everything else in the hart's part of a step, the critical-error state included. -/
theorem State.hartStep_of_reset (s : State) {p : PlatIn} {cause : Nat} (requested : p.reset = some cause) :
    s.hartStep p = .next (s.restarted cause) := by
  rw [State.hartStep, requested]

/-! ### What a reset leaves, field by field -/

section
variable (s : State) (cause : Nat)

@[simp] theorem State.restarted_cfg : (s.restarted cause).cfg = s.cfg := rfl

@[simp] theorem State.restarted_priv : (s.restarted cause).priv = .m := rfl

@[simp] theorem State.restarted_pc : (s.restarted cause).pc = s.cfg.resetVector := rfl

@[simp] theorem State.restarted_csr : (s.restarted cause).csr =
    { Csrs.resetFor s.cfg with mcause := narrow s.cfg.mxlen (s.cfg.resetCause cause) } := rfl

@[simp] theorem State.restarted_pmp :
    (s.restarted cause).pmp = resetPmpFrom 0 s.cfg.pmpReset (Vector.replicate 64 PmpEntry.off) := rfl

@[simp] theorem State.restarted_rnmi_nmie : (s.restarted cause).rnmi.nmie = false := rfl

@[simp] theorem State.restarted_wait : (s.restarted cause).wait = .running := rfl

@[simp] theorem State.restarted_criticalError : (s.restarted cause).criticalError = false := rfl

@[simp] theorem State.restarted_reservation : (s.restarted cause).reservation = none := rfl

end

/-! ### `MBE` and `MDT` as they read (10_state.md R58, R72) -/

/-- While its bit is clear, `MBE` reads 1 only where it is read-only 1. -/
theorem State.mbe_of_clear {s : State} (clear : s.csr.mstatus.mbe = false) : s.mbe = (s.cfg.mbeKind == .ro1) := by
  rw [State.mbe]
  cases s.cfg.mbeKind with
  | rw => exact clear
  | _ => rfl

/-- While its bit is set, `MDT` reads 1 just where Smdbltrp is present. -/
theorem State.status_mdt_of_set {s : State} (set : s.csr.mstatus.mdt = true) : s.status.mdt = s.cfg.ext.smdbltrp := by
  rw [State.status, set, Bool.and_true]

/-! ### The PMP (12_state_config_pmp_mmio.md R222) -/

/-- Where every entry of the file is off, so is every entry as it is read, those beyond `PMP_N` included. -/
theorem State.pmpEntry_eq_off {s : State} (off : s.pmp = Vector.replicate 64 PmpEntry.off) (i : Nat) :
    s.pmpEntry i = PmpEntry.off := by
  rw [State.pmpEntry, off]
  split
  · by_cases inFile : i < 64
    · rw [Vector.getElem?_eq_getElem inFile, Vector.getElem_replicate, Option.getD_some]
    · rw [Vector.getElem?_eq_none (Nat.le_of_not_lt inFile), Option.getD_none]
  · rfl

/-- A platform that names no reset entry resets every entry to off. -/
theorem State.restarted_pmpEntry (s : State) (unnamed : s.cfg.pmpReset = []) (cause i : Nat) :
    (s.restarted cause).pmpEntry i = PmpEntry.off :=
  State.pmpEntry_eq_off (by rw [State.restarted_pmp, unnamed, resetPmpFrom]) i

/-! ### The statements -/

/-- Settles O54: the step is the reset of the sampled state, which keeps the configuration; `MBE`, `MDT` and the PMP as they
read are the lemmas above, every other clause is a field of the reset state. -/
theorem resetLeaves : Obligations.ResetLeaves := by
  intro s cause requested
  refine ⟨_, State.hartStep_of_reset _ requested, ?priv, ?mie, ?mprv, State.mbe_of_clear ?mbe, State.status_mdt_of_set ?mdt,
    ?misa, ?reservation, ?pc, ?mcause, fun unnamed i => ?pmp, ?mml, ?mmwp, ?rlb, ?mlpe, ?useed, ?sseed, ?nmie, ?wait,
    ?criticalError, s.sampled_cfg s.input⟩
  case pmp =>
    rw [(s.sampled s.input).restarted_pmpEntry unnamed]
    exact ⟨rfl, rfl⟩
  all_goals simp [Csrs.resetFor, Mstatus.resetFor]

/-- The reset state of a configuration with aligned vectors meets the invariant. -/
theorem State.Sound.resetFor {c : Cfg} (aligned : vectorsAligned c = true) : (State.resetFor c).Sound := by
  obtain ⟨vector, -, -⟩ := (vectorsAligned_iff c).1 aligned
  exact { memory := rfl, mode := rfl, mdt := fun _ => mdtRule_m_of_mie rfl, vectors := aligned,
          pc := State.aligned_of_low_zero _ (setWidth_two_of_pairAt vector) }

/-- Settles O55: the reference configuration's vectors are aligned. -/
theorem resetMeetsInvariant : Obligations.ResetMeetsInvariant :=
  State.reset.invariant_iff.2 (State.Sound.resetFor (by decide))

end Sys2Proof.Machine
